-- ==== Sys2Proof/Word.lean ====
section
/-! DEFINITION. The word types of the register window, the show region and the fixture lines, and the fixed-length
collections the tables are kept in. -/

namespace Sys2Proof

/-- One byte of the show region, of a register or of a head link frame. -/
abbrev Byte := BitVec 8

/-- One register of the window, 32 bits (R178). -/
abbrev Word := BitVec 32

/-- A table with one place replaced. -/
def upd {α : Type} {n : Nat} (v : Vector α n) (i : Fin n) (x : α) : Vector α n :=
  v.set i.val x i.isLt

end Sys2Proof
end

