-- ==== Sys2Proof/Syntax.lean ====
section
/-! DEFINITION. The commands of the ZR16: one constructor per row of spec/opcode_table.json. The table gives the rows
no operands; those here are what the event of the row brings with it. A record row carries none: it takes the record
whose reads have completed. -/

namespace Sys2Proof

/-- The two halves of REGION_BASE (R178). -/
inductive Half
  | low | high
  deriving DecidableEq, Repr

/-- A decoded timecode frame (R133). -/
structure Timecode where
  hours : Nat
  minutes : Nat
  seconds : Nat
  frames : Nat
  deriving DecidableEq, Repr

/-- What cuts a reception off before its frame's last byte, beside a length byte above 16, which the bytes themselves show
(R113 step 3): the line becomes quiet; a new break starts; a byte arrives with its stop bit at space. -/
inductive Cut
  | quiet | newBreak | stopBit
  deriving DecidableEq, Repr

/-- A reception on a line: the µs at which its break began (R117), the bytes received after the break as far as they came,
and what cut it off, if anything but its length byte did (R113). -/
structure Reception where
  began : Nat
  bytes : List Byte
  cut : Option Cut
  deriving DecidableEq, Repr

/-- The commands. -/
inductive Instr
  /-- CARD_RESET (R154). -/
  | cardReset
  /-- START written to CONTROL (R155). -/
  | start
  /-- PAUSE written to CONTROL (R157). -/
  | pause
  /-- SOFT_RESET written to CONTROL (R158). -/
  | softReset
  /-- BLACKOUT written to CONTROL (R36). -/
  | blackout
  /-- RESTORE written to CONTROL (R37). -/
  | restore
  /-- A write to one half of REGION_BASE (R154, R178). -/
  | regionBaseWrite (half : Half) (value : Word)
  /-- A write to REGION_SIZE (R154). -/
  | regionSizeWrite (value : Word)
  /-- A write to SCAN_PERIOD (R154). -/
  | scanPeriodWrite (value : Word)
  /-- A read of ATTENTION_TAKE (R175). -/
  | attentionTake
  /-- A write to ATTENTION_MASK (R176). -/
  | attentionMaskWrite (value : Word)
  /-- Any other write to the window: its offset, its width in bytes and its value (R178). -/
  | registerWriteOther (offset : Nat) (width : Nat) (value : Word)
  /-- Completion of a start's header read with the bytes read (R156). -/
  | headerRead (bytes : List Byte)
  /-- Expiry of the scan timer (R160). -/
  | scanTimer
  /-- Completion of a link read with the bytes read (R160). -/
  | linkRead (bytes : List Byte)
  /-- Completion of a record head read with the bytes read (R162). -/
  | recordHeadRead (bytes : List Byte)
  /-- Completion of a record body read, or of a part of one, with the bytes read (R163). -/
  | recordBodyRead (bytes : List Byte)
  /-- A CUE record taken (R141). -/
  | cue
  /-- A CANCEL record taken (R152). -/
  | cancel
  /-- A RELEASE record taken (R31). -/
  | release
  /-- A PATCH record taken (R7). -/
  | patch
  /-- An UNPATCH record taken (R19). -/
  | unpatch
  /-- A CLEAR_HEAD record taken (R17). -/
  | clearHead
  /-- A PROFILE record without the remove flag taken (R3). -/
  | profile
  /-- A PROFILE record with the remove flag taken (R4). -/
  | profileRemove
  /-- A SECTOR record without the remove flag taken (R47). -/
  | sector
  /-- A SECTOR record with the remove flag taken (R48). -/
  | sectorRemove
  /-- A LINE record taken (R90). -/
  | line
  /-- A CLOCK record with command INTERNAL taken (R130). -/
  | clockInternal
  /-- A CLOCK record with command HALT taken (R131). -/
  | clockHalt
  /-- A CLOCK record with command CHASE taken (R132). -/
  | clockChase
  /-- A record of unknown kind taken (R163). -/
  | unknownKindRecord
  /-- Completion of a result write (R169). -/
  | resultWrite
  /-- Completion of a state write (R169). -/
  | stateWrite
  /-- Completion of a mirror entry write (R172). -/
  | mirrorWrite
  /-- Completion of a header update write (R174). -/
  | headerWrite
  /-- Expiry of the outstanding access's completion timer (R165). -/
  | completionTimer
  /-- The outstanding access completes with an error (R166). -/
  | busAccessError
  /-- A ready front cue fires (R144). -/
  | firing
  /-- A marked DROP cue at the front is passed over (R148). -/
  | passedOver
  /-- Running show time reaches the end of the show day (R127). -/
  | showDayEnd
  /-- A timecode frame arrives, decoded or not (R133). -/
  | timecodeFrame (frame : Option Timecode)
  /-- Expiry of the loss timer (R135). -/
  | lossTimer
  /-- Expiry of the freewheel deadline (R136). -/
  | freewheelDeadline
  /-- Expiry of a head's identification timer (R9). -/
  | identificationTimer (head : Fin 512)
  /-- Expiry of a head's strike timer (R42). -/
  | strikeTimer (head : Fin 512)
  /-- Expiry of a head's cooling timer (R42). -/
  | coolingTimer (head : Fin 512)
  /-- Expiry of the deadline of a head's TRAVELLING move (R78). -/
  | deadline (head : Fin 512)
  /-- Expiry of the latch deadline of a running slot's gathering (R84). -/
  | latchDeadline (slot : Fin 64)
  /-- A refresh becomes due on an idle line (R97). -/
  | refreshDue (line : Fin 16)
  /-- The poll period elapses on an idle line (R98). -/
  | pollPeriodElapsed (line : Fin 16)
  /-- The line becomes quiet (R112). -/
  | lineQuiet (line : Fin 16)
  /-- Expiry of a backoff (R109). -/
  | backoffExpiry (line : Fin 16)
  /-- Expiry of a jam hold (R109). -/
  | jamHoldExpiry (line : Fin 16)
  /-- A byte read back differs from the byte sent (R107). -/
  | collision (line : Fin 16)
  /-- Clean completion of a LOOK (R101). -/
  | lookComplete (line : Fin 16)
  /-- Clean completion of a LATCH (R105). -/
  | latchComplete (line : Fin 16)
  /-- Clean completion of an attempt's frame (R102). -/
  | attemptSent (line : Fin 16)
  /-- A reply window closes with no reply begun (R102). -/
  | replyWindowClose (line : Fin 16)
  /-- An ACCEPT received in a reply window (R103). -/
  | accept (line : Fin 16) (frame : Reception)
  /-- A REFUSE received in a reply window (R103). -/
  | refuse (line : Fin 16) (frame : Reception)
  /-- A STATUS received in a reply window (R123). -/
  | status (line : Fin 16) (frame : Reception)
  /-- A DESCRIPTOR received in a reply window (R124). -/
  | descriptor (line : Fin 16) (frame : Reception)
  /-- A reception in a reply window that is no reply of the addressed head (R113, R115). -/
  | badReply (line : Fin 16) (frame : Reception)
  /-- A reception outside any reply window (R106, R113, R117). -/
  | strayFrame (line : Fin 16) (frame : Reception)
  deriving DecidableEq, Repr

end Sys2Proof
end

