-- ==== Sys2Proof/Config.lean ====
section
/-! DEFINITION. The constants of the ZR16: the sizes of its tables and lists, its fixed times and the ranges and
defaults of its settings. The spec leaves no result value open, so there is no free value here. -/

namespace Sys2Proof.Config

/-- Microseconds in a millisecond of engine time. -/
def microsPerMilli : Nat := 1000

/-- The last millisecond of the show day (R126). -/
def lastShowMs : Nat := 86399999

/-- Places of the pending cue list (R138). -/
def pendingCues : Nat := 256
/-- Head entries of the pool (R139). -/
def poolEntries : Nat := 4096
/-- Places of the write-back list (R168). -/
def writeBackPlaces : Nat := 128
/-- Free places of the write-back list a taking needs (R163). -/
def takingPlaces : Nat := 2
/-- Commands a line's queue holds (R92). -/
def queuePlaces : Nat := 48
/-- LATCH commands a line's overflow holds (R94). -/
def overflowPlaces : Nat := 4
/-- Sectors a membership list holds (R45). -/
def sectorsPerHead : Nat := 8
/-- Records one scan takes (R160). -/
def recordsPerScan : Nat := 32
/-- Waiting scans that make the chain STUCK (R162). -/
def stuckCount : Nat := 16
/-- Record updates between two mirror turns (R171). -/
def updatesPerMirror : Nat := 8
/-- Consecutive misses that lose a head (R13). -/
def missesToLost : Nat := 6
/-- Attempts of an exchange other than a POLL (R102). -/
def attemptsPerExchange : Nat := 3
/-- Consecutive collisions that jam a line (R108). -/
def collisionsToJam : Nat := 8
/-- Where a cumulative counter or a miss total stops (R13, R110). -/
def counterTop : Nat := 127
/-- Frames since the last POLL that escalate a POLL (R99). -/
def framesToPoll : Nat := 8
/-- Commands since the last LOOK that escalate a refresh (R99). -/
def commandsToLook : Nat := 4

/-- Identification timer, ms (R9). -/
def identMs : Nat := 1000
/-- Jam hold, ms (R108). -/
def jamHoldMs : Nat := 500
/-- What a move's deadline adds to twice the expected travel time, ms (R70, R86). -/
def deadlineSlackMs : Nat := 1000
/-- Completion timer of a bus access, µs (R165). -/
def completionMicros : Nat := 10000
/-- Reply window, µs (R117). -/
def replyWindowMicros : Nat := 400
/-- A line at mark for so many µs is quiet (R112). -/
def quietMicros : Nat := 40

/-- SCAN_PERIOD is clamped into this range, µs (R154). -/
def scanPeriodMin : Nat := 250
/-- SCAN_PERIOD is clamped into this range, µs (R154). -/
def scanPeriodMax : Nat := 20000
/-- SCAN_PERIOD after a card reset, µs (R154). -/
def scanPeriodReset : Nat := 1000

/-- Default refresh period, ms (R88, R90). -/
def refreshDefault : Nat := 25
/-- Default poll period, ms (R88, R90). -/
def pollDefault : Nat := 20
/-- Default freewheel limit, ms (R126, R129). -/
def freewheelDefault : Nat := 2000
/-- Default jump threshold, ms (R126, R129). -/
def thresholdDefault : Nat := 100
/-- Default latch wait, ms (R140). -/
def latchWaitDefault : Nat := 100

/-- Bytes of the region header (R159). -/
def headerBytes : Nat := 128
/-- Bytes of a record head (R163). -/
def recordHeadBytes : Nat := 32
/-- Bytes of the head mirror area (R156). -/
def headMirrorBytes : Nat := 16384
/-- Bytes of the line mirror area (R156). -/
def lineMirrorBytes : Nat := 512
/-- Smallest region (R156). -/
def regionMin : Nat := 65536
/-- Largest region (R156). -/
def regionMax : Nat := 268435456
/-- Alignment of a region's base and size (R156). -/
def regionAlign : Nat := 4096

end Sys2Proof.Config
end

