-- ==== Sys2Proof/Machine/State.lean ====
section
/-! DEFINITION. The state of the ZR16 as plain data, block by block, and its value after a card reset. -/

namespace Sys2Proof.Machine

/-! ### Indices (00_scope.md, 4.3) -/

/-- A head index, 0 to 511. -/
abbrev HeadIx := Fin 512
/-- A line, L0 to L15. -/
abbrev LineIx := Fin 16
/-- A head address on a line: the index a stands for address a + 1, so 1 to 32. -/
abbrev AddrIx := Fin 32
/-- A profile slot, 0 to 31. -/
abbrev ProfileIx := Fin 32
/-- A sector slot, 0 to 63. -/
abbrev SectorIx := Fin 64
/-- A running slot, 0 to 63, which is also the latch number of its cue. -/
abbrev SlotIx := Fin 64
/-- A mirror entry in the sweep's order: head 0 to 511, then line 0 to 15 (R170). -/
abbrev MirrorIx := Fin 528
/-- An AIM sequence or a line sequence, wrapping at 256. -/
abbrev Seq := BitVec 8
/-- A tag chosen by the host. -/
abbrev Tag := BitVec 32

/-! ### The register window (R154, R175, R176) -/

/-- A set of attention causes (R175). -/
structure Causes where
  result : Bool
  head : Bool
  line : Bool
  clock : Bool
  chain : Bool
  bus : Bool
  capacity : Bool
  deriving DecidableEq, Repr

/-- No cause. -/
def Causes.empty : Causes := ⟨false, false, false, false, false, false, false⟩

/-- The registers of the window that hold state of their own, the attention latch and the blackout flag.
`lastTake` is the model's own: what the last read of ATTENTION_TAKE returned. -/
structure Registers where
  regionBase : BitVec 64
  regionSize : Word
  scanPeriod : Nat
  latch : Causes
  mask : Causes
  blackout : Bool
  lastTake : Word
  deriving DecidableEq, Repr

/-! ### Records and what the part writes (R164, R177) -/

/-- Record states. -/
inductive RecState
  | blank | posted | taken | done | refused | cancelled | passed
  deriving DecidableEq, Repr

/-- Result codes. -/
inductive ResultCode
  | ok | malformed | unknownKind | noProfile | bound | inUse | notPatched | full | duplicateTag | notFound
  | notPending | wrongState
  deriving DecidableEq, Repr

/-- A record head as read, with its offset; `state` is the byte read. -/
structure RecordHead where
  offset : Nat
  next : Nat
  tag : Tag
  state : Nat
  kind : Nat
  deriving DecidableEq, Repr

/-- One head entry of a CUE record as read (11.4). -/
structure EntryRec where
  head : Nat
  position : Bool
  colour : Bool
  beam : Bool
  lamp : Nat
  pan : Int
  tilt : Int
  moveTime : Nat
  colourCount : Nat
  colourFade : Nat
  intensity : Nat
  beamFade : Nat
  values : Vector Nat 6
  deriving DecidableEq, Repr

/-- The body of a CUE record as read. -/
structure CueRec where
  layer : Nat
  goPresent : Bool
  skip : Nat
  together : Bool
  latchWait : Nat
  count : Nat
  goTime : Nat
  entries : List EntryRec
  deriving DecidableEq, Repr

/-- The body of a RELEASE record as read; all eight ranges. -/
structure ReleaseRec where
  layer : Nat
  position : Bool
  colour : Bool
  beam : Bool
  count : Nat
  fade : Nat
  ranges : List (Nat × Nat)
  deriving DecidableEq, Repr

/-- The body of a PATCH record as read. -/
structure PatchRec where
  head : Nat
  line : Nat
  address : Nat
  profile : Nat
  panSign : Int
  tiltSign : Int
  deriving DecidableEq, Repr

/-- The body of a PROFILE record as read; all six components as (wire slot, width, shift). -/
structure ProfileRec where
  slot : Nat
  remove : Bool
  lampKind : Nat
  count : Nat
  model : BitVec 32
  panMin : Int
  panMax : Int
  tiltMin : Int
  tiltMax : Int
  panSpeed : Nat
  tiltSpeed : Nat
  strike : Nat
  cooling : Nat
  components : List (Nat × Nat × Nat)
  deriving DecidableEq, Repr

/-- The body of a SECTOR record as read; all eight ranges. -/
structure SectorRec where
  slot : Nat
  remove : Bool
  armed : Bool
  policy : Nat
  panMin : Int
  panMax : Int
  tiltMin : Int
  tiltMax : Int
  wayPan : Int
  wayTilt : Int
  count : Nat
  ranges : List (Nat × Nat)
  deriving DecidableEq, Repr

/-- The body of a LINE record as read. -/
structure LineRec where
  line : Nat
  enable : Bool
  echo : Bool
  resetCounters : Bool
  refresh : Nat
  poll : Nat
  deriving DecidableEq, Repr

/-- The body of a CLOCK record as read. -/
structure ClockRec where
  command : Nat
  run : Bool
  rate : Nat
  start : Nat
  limit : Nat
  threshold : Nat
  deriving DecidableEq, Repr

/-- The body of a record by its kind. -/
inductive RecordBody
  | cue (r : CueRec)
  | cancel (tag : Tag)
  | release (r : ReleaseRec)
  | patch (r : PatchRec)
  | unpatch (head : Nat)
  | clearHead (head : Nat)
  | profile (r : ProfileRec)
  | sector (r : SectorRec)
  | line (r : LineRec)
  | clock (r : ClockRec)
  | unknown
  deriving DecidableEq, Repr

/-- A record whose reads have all completed. -/
structure Record where
  head : RecordHead
  body : RecordBody
  deriving DecidableEq, Repr

/-- A record update (R168). `area` is the 16 result bytes of a final state, empty otherwise. `slot` names the RETIRED
slot the update belongs to, if any (R150). -/
structure Update where
  offset : Nat
  state : RecState
  code : ResultCode
  area : List Byte
  slot : Option SlotIx
  deriving DecidableEq, Repr

/-! ### Angles, positions, profiles, sectors -/

/-- A pan and tilt in centidegrees. Exact integers: no sum or negation of angles wraps (R124). -/
structure Point where
  pan : Int
  tilt : Int
  deriving DecidableEq, Repr

/-- A pan range and a tilt range, both ends included (R50). -/
structure Box where
  panMin : Int
  panMax : Int
  tiltMin : Int
  tiltMax : Int
  deriving DecidableEq, Repr

/-- A mount sign (R5). -/
inductive Sign
  | plus | minus | held
  deriving DecidableEq, Repr

/-- Lamp kinds (section 1.2). -/
inductive LampKind
  | none | discharge
  deriving DecidableEq, Repr

/-- One colour component: wire slot, width in bits, shift. -/
structure Component where
  wire : Nat
  width : Nat
  shift : Nat
  deriving DecidableEq, Repr

/-- A profile (section 1.2); `components` has component-count places in internal order. -/
structure Profile where
  model : BitVec 32
  panMin : Int
  panMax : Int
  tiltMin : Int
  tiltMax : Int
  panSpeed : Nat
  tiltSpeed : Nat
  lamp : LampKind
  strike : Nat
  cooling : Nat
  components : List Component
  deriving DecidableEq, Repr

/-- Sector policies; only DETOUR keeps a waypoint (R46). -/
inductive Policy
  | darken
  | detour (waypoint : Point)
  | refuse
  deriving DecidableEq, Repr

/-- An exclusion sector (R44); the ranges as the record gave them. -/
structure Sector where
  armed : Bool
  box : Box
  policy : Policy
  ranges : List (Nat × Nat)
  deriving DecidableEq, Repr

/-! ### Head contexts (R1, R23, R38, R59) -/

/-- Availability states. -/
inductive Avail
  | unpatched | identifying | mismatch | active | lost | fault | offline
  deriving DecidableEq, Repr

/-- Lamp states. -/
inductive Lamp
  | off | striking | lit | cooling
  deriving DecidableEq, Repr

/-- Fault causes. -/
inductive FaultCause
  | none | motor | lamp | powerLow | overheat | stall
  deriving DecidableEq, Repr

/-- The outcomes a move ends with (R59). -/
inductive MoveOutcome
  | reached | headRefused | failed | stalled | overtaken | lost | lineDown | fault | unpatched
  deriving DecidableEq, Repr

/-- Last refusal reasons. -/
inductive Refused
  | none | range | path | headRange | headMotor | lamp
  deriving DecidableEq, Repr

/-- A miss total or a line's counter: 0 to 127 with a sticky overflow flag (R13, R110). -/
structure Counter where
  count : Nat
  overflow : Bool
  deriving DecidableEq, Repr

/-- The guard-reason set (section 2.5). -/
structure Guard where
  transit : Bool
  parked : Bool
  blackout : Bool
  fault : Bool
  deriving DecidableEq, Repr

/-- No guard reason. -/
def Guard.none : Guard := ⟨false, false, false, false⟩

/-- Where a patched head hangs and what it is (R8). -/
structure Binding where
  line : LineIx
  address : AddrIx
  profile : ProfileIx
  panSign : Sign
  tiltSign : Sign
  deriving DecidableEq, Repr

/-- `accepted_target`: a position with an optional AIM sequence. -/
structure Accepted where
  point : Point
  seq : Option Seq
  deriving DecidableEq, Repr

/-- Six internal colour component values. -/
abbrev Colour := Vector Nat 6

/-- A POSITION cell (R23). -/
structure PosCell where
  target : Point
  moveTime : Nat
  slot : SlotIx
  deriving DecidableEq, Repr

/-- The fade record of a COLOUR cell, or the COLOUR release transition (R23). -/
structure ColourFade where
  start : Colour
  begun : Nat
  duration : Nat
  deriving DecidableEq, Repr

/-- The fade record of a BEAM cell, or the BEAM release transition (R23). -/
structure BeamFade where
  start : Nat
  begun : Nat
  duration : Nat
  deriving DecidableEq, Repr

/-- A COLOUR cell (R23). -/
structure ColourCell where
  target : Colour
  fade : ColourFade
  slot : SlotIx
  deriving DecidableEq, Repr

/-- A BEAM cell (R23). -/
structure BeamCell where
  target : Nat
  fade : BeamFade
  slot : SlotIx
  deriving DecidableEq, Repr

/-- The two lamp timers (R38). -/
inductive LampTimerKind
  | strike | cooling
  deriving DecidableEq, Repr

/-- The lamp timer a head holds, with its expiry in engine time. -/
structure LampTimer where
  kind : LampTimerKind
  expiry : Nat
  deriving DecidableEq, Repr

/-- Move states (R59). -/
inductive MoveState
  | planned | onWire | staged | travelling
  deriving DecidableEq, Repr

/-- One leg of a move; the sequence is absent until the leg's AIM is first transmitted. -/
structure Leg where
  target : Point
  time : Nat
  seq : Option Seq
  deriving DecidableEq, Repr

/-- Which leg is current. -/
inductive Which
  | first | second
  deriving DecidableEq, Repr

/-- A move record (R59). -/
structure Move where
  state : MoveState
  leg1 : Leg
  leg2 : Option Leg
  current : Which
  darken : Bool
  darkSent : Bool
  staged : Bool
  latch : Option SlotIx
  cue : Option SlotIx
  travel : Option Nat
  deadline : Option Nat
  attempts : Nat
  deriving DecidableEq, Repr

/-- A head context. -/
structure Head where
  avail : Avail
  binding : Option Binding
  accepted : Option Accepted
  settled : Bool
  hull : Option Box
  missRun : Nat
  missTotal : Counter
  nextAim : Seq
  identTimer : Option Nat
  guard : Guard
  lamp : Lamp
  strikePending : Bool
  lampTimer : Option LampTimer
  faultCause : FaultCause
  lastOutcome : Option MoveOutcome
  lastRefused : Refused
  lastCueTag : Option Tag
  showPos : Option PosCell
  livePos : Option PosCell
  showCol : Option ColourCell
  liveCol : Option ColourCell
  showBeam : Option BeamCell
  liveBeam : Option BeamCell
  colRelease : Option ColourFade
  beamRelease : Option BeamFade
  move : Option Move
  deriving DecidableEq, Repr

/-- The values of an UNPATCHED context (R1, R23, R38, R59). -/
def Head.unpatched : Head where
  avail := .unpatched
  binding := none
  accepted := none
  settled := false
  hull := none
  missRun := 0
  missTotal := ⟨0, false⟩
  nextAim := 0
  identTimer := none
  guard := Guard.none
  lamp := .off
  strikePending := false
  lampTimer := none
  faultCause := .none
  lastOutcome := none
  lastRefused := .none
  lastCueTag := none
  showPos := none
  livePos := none
  showCol := none
  liveCol := none
  showBeam := none
  liveBeam := none
  colRelease := none
  beamRelease := none
  move := none

/-! ### Line Controllers (R88) -/

/-- LAMP commands. -/
inductive LampCmd
  | strike | douse
  deriving DecidableEq, Repr

/-- SERVICE commands. -/
inductive ServiceCmd
  | ident | clear
  deriving DecidableEq, Repr

/-- A queued command (R92): MOTION, LAMP, SERVICE of a head, or a LATCH. -/
inductive Command
  | aim (h : HeadIx)
  | lamp (h : HeadIx) (c : LampCmd)
  | service (h : HeadIx) (c : ServiceCmd)
  | latch (n : SlotIx)
  deriving DecidableEq, Repr

/-- The owed marks of one bound head, one per class (R93). -/
structure Owed where
  motion : Bool
  lamp : Option LampCmd
  service : Option ServiceCmd
  deriving DecidableEq, Repr

/-- No owed mark. -/
def Owed.none : Owed := ⟨false, Option.none, Option.none⟩

/-- The commands that are exchanged (section 5.6). -/
inductive ExKind
  | aim | poll | ident | strike | douse | clear
  deriving DecidableEq, Repr

/-- What the AIM of an exchange sent: its stage-relative target, its sequence and its staged flag (R69, R74). -/
structure AimSent where
  target : Point
  seq : Seq
  staged : Bool
  deriving DecidableEq, Repr

/-- Where an exchange stands: its frame is on the wire (with echo check or not); its reply window is open until a µs;
the same attempt is to be transmitted again after a collision; the next attempt is to begin. -/
inductive Phase
  | transmitting (echo : Bool)
  | window (closes : Nat)
  | retransmit
  | nextAttempt
  deriving DecidableEq, Repr

/-- An exchange (R102). `stopped` is R104; `orphaned` says that the head it was begun for was unpatched. -/
structure Exchange where
  kind : ExKind
  head : HeadIx
  address : AddrIx
  seq : Seq
  aim : Option AimSent
  frame : List Byte
  attempts : Nat
  phase : Phase
  stopped : Bool
  orphaned : Bool
  deriving DecidableEq, Repr

/-- A LOOK on the wire (R101). -/
structure Look where
  head : HeadIx
  address : AddrIx
  frame : List Byte
  intensity : Nat
  begun : Nat
  darkFirst : Bool
  echo : Bool
  deriving DecidableEq, Repr

/-- What a line is doing: nothing; a LOOK on the wire; a LATCH on the wire (with echo check or not) or held for
resending; an exchange. -/
inductive Work
  | idle
  | look (k : Look)
  | latch (n : SlotIx) (onWire : Option Bool) (frame : List Byte)
  | exchange (x : Exchange)
  deriving DecidableEq, Repr

/-- Line states (R89). -/
inductive LineState
  | disabled | running | backoff | jammed
  deriving DecidableEq, Repr

/-- A Line Controller with its line's address map. Owed marks, refresh due times and the map are kept by address.
`quietAt`, `awaitsQuiet`, `afterDark`, `cutWindow` and `latchSpent` are what R112, R113, R99, R88 and R87 make the line
remember: the µs before which the line cannot be quiet, absent once LINE_QUIET has said that it is; that the receiver waits
until it is; the head whose dark LOOK has just gone out; the end of the last reply window that a SOFT_RESET closed; that
the slot of the LATCH on the wire has left RUNNING. -/
structure Line where
  state : LineState
  echo : Bool
  refresh : Nat
  poll : Nat
  queue : List Command
  owed : Vector Owed 32
  overflow : List SlotIx
  work : Work
  run : Nat
  timer : Option Nat
  refreshDue : Vector (Option Nat) 32
  lastPoll : Nat
  framesSincePoll : Nat
  commandsSinceLook : Nat
  pollPos : AddrIx
  seq : Seq
  collisions : Counter
  misses : Counter
  checkErrors : Counter
  addrMap : Vector (Option HeadIx) 32
  quietAt : Option Nat
  awaitsQuiet : Bool
  afterDark : Option HeadIx
  cutWindow : Option Nat
  latchSpent : Bool
  deriving DecidableEq, Repr

/-- A Line Controller after a card reset (R88). `lastPoll` has no value there: 0 (DESIGN CHOICE, log 19). -/
def Line.reset : Line where
  state := .disabled
  echo := true
  refresh := Config.refreshDefault
  poll := Config.pollDefault
  queue := []
  owed := Vector.replicate 32 Owed.none
  overflow := []
  work := .idle
  run := 0
  timer := none
  refreshDue := Vector.replicate 32 none
  lastPoll := 0
  framesSincePoll := 0
  commandsSinceLook := 0
  pollPos := 31
  seq := 0
  collisions := ⟨0, false⟩
  misses := ⟨0, false⟩
  checkErrors := ⟨0, false⟩
  addrMap := Vector.replicate 32 none
  quietAt := none
  awaitsQuiet := false
  afterDark := none
  cutWindow := none
  latchSpent := false

/-! ### Cues (R138, R139, R142) -/

/-- Layers. -/
inductive Layer
  | show | live
  deriving DecidableEq, Repr

/-- Skip policies. -/
inductive SkipPolicy
  | fire | drop
  deriving DecidableEq, Repr

/-- Lamp requests. -/
inductive LampReq
  | none | strike | douse
  deriving DecidableEq, Repr

/-- The POSITION of a head entry. -/
structure EntryPos where
  target : Point
  moveTime : Nat
  deriving DecidableEq, Repr

/-- The COLOUR of a head entry with the count of components it carried (R139); those it does not give are 0 (R23). -/
structure EntryCol where
  count : Nat
  target : Colour
  fade : Nat
  deriving DecidableEq, Repr

/-- The BEAM of a head entry. -/
structure EntryBeam where
  target : Nat
  fade : Nat
  deriving DecidableEq, Repr

/-- A head entry as a pool entry holds it (R139). -/
structure Entry where
  head : HeadIx
  position : Option EntryPos
  colour : Option EntryCol
  beam : Option EntryBeam
  lamp : LampReq
  deriving DecidableEq, Repr

/-- A pending cue (R138). Its entries are its places of the pool. -/
structure Cue where
  tag : Tag
  offset : Nat
  layer : Layer
  goTime : Nat
  policy : SkipPolicy
  together : Bool
  latchWait : Nat
  entries : List Entry
  skip : Bool
  noted : Bool
  deriving DecidableEq, Repr

/-- The six outcome counts (R142). -/
structure Counts where
  reached : Nat
  applied : Nat
  deferred : Nat
  refused : Nat
  overtaken : Nat
  failed : Nat
  deriving DecidableEq, Repr

/-- Gathering states (R142). -/
inductive GatherState
  | none | gathering | latched
  deriving DecidableEq, Repr

/-- The gathering fields of a running slot (R82). -/
structure Gathering where
  state : GatherState
  count : Nat
  deadline : Option Nat
  lines : Vector Bool 16
  deriving DecidableEq, Repr

/-- No gathering. -/
def Gathering.none : Gathering := ⟨.none, 0, Option.none, Vector.replicate 16 false⟩

/-- The contents of a slot that is not FREE (R142); it is RUNNING until `retired`. `applied` says that all its cue's
entries have been applied (R149). -/
structure Running where
  tag : Tag
  offset : Nat
  together : Bool
  latchWait : Nat
  fireShow : Nat
  fireEngine : Nat
  lateness : Nat
  outstanding : Nat
  counts : Counts
  lateFire : Bool
  skipped : Bool
  gathering : Gathering
  applied : Bool
  retired : Bool
  deriving DecidableEq, Repr

/-! ### The show clock (R126) -/

/-- Clock states. -/
inductive ClockState
  | halted | internal | seeking | locked | freewheel | held
  deriving DecidableEq, Repr

/-- Frame rates. -/
inductive Rate
  | fps24 | fps25 | fps30
  deriving DecidableEq, Repr

/-- The last frame of the lock run. -/
structure LastFrame where
  index : Nat
  arrival : Nat
  deriving DecidableEq, Repr

/-- The Show Clock. -/
structure Clock where
  state : ClockState
  showTime : Nat
  rate : Rate
  limit : Nat
  threshold : Nat
  seekRuns : Bool
  lockRun : Nat
  lastFrame : Option LastFrame
  lossTimer : Option Nat
  freewheelDeadline : Option Nat
  freewheelStart : Option Nat
  deriving DecidableEq, Repr

/-- The Show Clock after a card reset and after a SOFT_RESET. -/
def Clock.reset : Clock where
  state := .halted
  showTime := 0
  rate := .fps25
  limit := Config.freewheelDefault
  threshold := Config.thresholdDefault
  seekRuns := false
  lockRun := 0
  lastFrame := none
  lossTimer := none
  freewheelDeadline := none
  freewheelStart := none

/-! ### Chain Reader, Bus Master, Write-Back Unit -/

/-- Engine states (R155). -/
inductive EngineState
  | idle | reading | paused | busPaused
  deriving DecidableEq, Repr

/-- Chain conditions (R161, R162). -/
inductive ChainCondition
  | clear | waiting | broken | stuck
  deriving DecidableEq, Repr

/-- Last START outcomes (R156). -/
inductive StartOutcome
  | none | pending | ok | baseMisaligned | sizeInvalid | headerBusError | mirrorPlacement
  deriving DecidableEq, Repr

/-- The region the engine keeps while it is out of IDLE (R156). -/
structure Region where
  base : Nat
  size : Nat
  headMirror : Nat
  lineMirror : Nat
  deriving DecidableEq, Repr

/-- A sample of the five part-written header fields (R159); `follow` is 0 while there is none. -/
structure Sample where
  follow : Nat
  takenCount : BitVec 32
  showTime : Nat
  clock : ClockState
  engine : EngineState
  deriving DecidableEq, Repr

/-- The Chain Reader. `scan` counts the records a scan in progress has taken; `holding` is the record whose reads
have completed and which is about to be taken; `waitedAt` is where the previous scan ended waiting. -/
structure Chain where
  engine : EngineState
  starting : Bool
  outcome : StartOutcome
  region : Option Region
  follow : Option Nat
  takenCount : BitVec 32
  scanTimer : Option Nat
  scan : Option Nat
  holding : Option Record
  waitingCount : Nat
  waitedAt : Option Nat
  condition : ChainCondition
  lastSample : Option Sample
  deriving DecidableEq, Repr

/-- The Chain Reader after a card reset and after a SOFT_RESET (R154, R158). -/
def Chain.reset : Chain where
  engine := .idle
  starting := false
  outcome := .none
  region := none
  follow := none
  takenCount := 0
  scanTimer := none
  scan := none
  holding := none
  waitingCount := 0
  waitedAt := none
  condition := .clear
  lastSample := none

/-- What the Chain Reader reads (R165), with what it has read of the record so far. -/
inductive ReadOp
  | header
  | link (offset : Nat)
  | head (offset : Nat)
  | body (h : RecordHead)
  | cueFixed (h : RecordHead)
  | cueEntries (h : RecordHead) (fixed : List Byte)
  deriving DecidableEq, Repr

/-- What the Write-Back Unit asks to write next (R171); contents are made when the write is issued. -/
inductive WriteReq
  | result
  | state
  | mirror (e : MirrorIx)
  | header
  deriving DecidableEq, Repr

/-- The state a mirror entry carries (R172). -/
inductive Carried
  | head (h : HeadIx) (a : Avail)
  | line (l : LineIx) (s : LineState)
  deriving DecidableEq, Repr

/-- A bus access (R165). A write holds its bytes, so that its retry rewrites them unchanged (R172). -/
inductive Access
  | read (op : ReadOp)
  | result (u : Update)
  | state (u : Update)
  | mirror (e : MirrorIx) (carried : Carried) (bytes : List Byte)
  | header (s : Sample)
  deriving DecidableEq, Repr

/-- The outstanding access, its completion timer in µs, and whether its requester has given it up (R157). -/
structure Outstanding where
  access : Access
  expiry : Nat
  givenUp : Bool
  deriving DecidableEq, Repr

/-- The Bus Master's two requesters. -/
inductive Requester
  | reader | writer
  deriving DecidableEq, Repr

/-- The Bus Master (R165, R166). -/
structure Bus where
  outstanding : Option Outstanding
  readerReq : Option ReadOp
  writerReq : Option WriteReq
  held : Option Access
  lastIssued : Option Requester
  deriving DecidableEq, Repr

/-- The Bus Master after a card reset and after a SOFT_RESET (R158). -/
def Bus.reset : Bus := ⟨none, none, none, none, none⟩

/-- A header sample handed over, with its barrier: the number of listed updates that must be written before it
(R174). -/
structure HeldSample where
  sample : Sample
  barrier : Nat
  deriving DecidableEq, Repr

/-- The Write-Back Unit but for the dirty marks and the held updates, which stand with the fixtures. -/
structure WriteBack where
  list : List Update
  sweep : MirrorIx
  stamps : Vector (BitVec 16) 528
  lastHead : Vector Avail 512
  lastLine : Vector LineState 16
  sinceMirror : Nat
  waiting : Option HeldSample
  later : Option HeldSample
  deriving DecidableEq, Repr

/-- The Write-Back Unit after a card reset and after a SOFT_RESET (R168, R170 to R174). -/
def WriteBack.reset : WriteBack where
  list := []
  sweep := 0
  stamps := Vector.replicate 528 0
  lastHead := Vector.replicate 512 .unpatched
  lastLine := Vector.replicate 16 .disabled
  sinceMirror := 0
  waiting := none
  later := none

/-! ### The fixture side -/

/-- The Profile Store, the Sector Table with its membership lists, the Head Table, the Line Controllers, the running
cue table, and what their changes hand the Write-Back Unit: the dirty marks (R170) and the RETIRED slots whose final
update waits for a place (R149). -/
structure Rig where
  profiles : Vector (Option Profile) 32
  sectors : Vector (Option Sector) 64
  members : Vector (List SectorIx) 512
  heads : Vector Head 512
  lines : Vector Line 16
  slots : Vector (Option Running) 64
  marks : Vector Bool 528
  offered : List SlotIx
  deriving DecidableEq, Repr

/-- The fixture side after a card reset and after a SOFT_RESET. -/
def Rig.reset : Rig where
  profiles := Vector.replicate 32 none
  sectors := Vector.replicate 64 none
  members := Vector.replicate 512 []
  heads := Vector.replicate 512 Head.unpatched
  lines := Vector.replicate 16 Line.reset
  slots := Vector.replicate 64 none
  marks := Vector.replicate 528 false
  offered := []

/-! ### The machine -/

/-- The state of the ZR16, and the queue of commands waiting to be executed, first in first out. `micros` counts
microseconds since card reset; engine time is its whole milliseconds. -/
structure State where
  pending : List Instr
  micros : Nat
  regs : Registers
  chain : Chain
  bus : Bus
  wb : WriteBack
  clock : Clock
  cues : List Cue
  rig : Rig
  deriving DecidableEq, Repr

/-- The registers after a card reset (R154). `lastTake` is the model's own: 0 (DESIGN CHOICE, log 19). -/
def Registers.reset : Registers where
  regionBase := 0
  regionSize := 0
  scanPeriod := Config.scanPeriodReset
  latch := Causes.empty
  mask := Causes.empty
  blackout := false
  lastTake := 0

/-- The machine right after a card reset, with no command waiting. -/
def State.reset : State where
  pending := []
  micros := 0
  regs := Registers.reset
  chain := Chain.reset
  bus := Bus.reset
  wb := WriteBack.reset
  clock := Clock.reset
  cues := []
  rig := Rig.reset

/-- Reasons a command can stop with a fault: none. The part has no state in which it stops: what it cannot do it
answers with a result code, a chain condition, a bus pause or a line state. -/
inductive Fault : Type
  deriving DecidableEq, Repr

/-- Reasons a command can be refused. -/
inductive Refusal
  /-- Raised by `exec` alone, for a row without a meaning; safe. No row is without one. -/
  | notModelled (mnemonic : String)
  deriving DecidableEq, Repr

end Sys2Proof.Machine
end

