-- ==== Sys2Proof/Machine/Flags.lean ====
section
/-! DEFINITION. Sets and counters: the attention causes with the latch, mask and interrupt line (R175, R176), the
guard-reason set (section 2.5), and the counters that stop at 127 (R13, R110). -/

namespace Sys2Proof.Machine

/-! ### Attention (R175, R176, 11.1) -/

/-- The seven causes. -/
inductive Cause
  | result | head | line | clock | chain | bus | capacity
  deriving DecidableEq, Repr

/-- The set with one cause added. -/
def Causes.add (c : Causes) : Cause → Causes
  | .result => { c with result := true }
  | .head => { c with head := true }
  | .line => { c with line := true }
  | .clock => { c with clock := true }
  | .chain => { c with chain := true }
  | .bus => { c with bus := true }
  | .capacity => { c with capacity := true }

/-- The causes of both sets. -/
def Causes.inter (c d : Causes) : Causes :=
  ⟨c.result && d.result, c.head && d.head, c.line && d.line, c.clock && d.clock, c.chain && d.chain, c.bus && d.bus,
    c.capacity && d.capacity⟩

/-- The causes of the first set that are not in the second. -/
def Causes.minus (c d : Causes) : Causes :=
  ⟨c.result && !d.result, c.head && !d.head, c.line && !d.line, c.clock && !d.clock, c.chain && !d.chain,
    c.bus && !d.bus, c.capacity && !d.capacity⟩

/-- Attention cause bits of a register (11.1). -/
def Causes.toWord (c : Causes) : Word :=
  BitVec.ofNat 32 (c.result.toNat + 2 * c.head.toNat + 4 * c.line.toNat + 8 * c.clock.toNat + 16 * c.chain.toNat +
    32 * c.bus.toNat + 64 * c.capacity.toNat)

/-- The causes that bits 0 to 6 of a register name (R178). -/
def Causes.ofWord (w : Word) : Causes :=
  ⟨w.getLsbD 0, w.getLsbD 1, w.getLsbD 2, w.getLsbD 3, w.getLsbD 4, w.getLsbD 5, w.getLsbD 6⟩

/-- Latching a cause (R175). -/
def State.latchCause (s : State) (c : Cause) : State :=
  { s with regs := { s.regs with latch := s.regs.latch.add c } }

/-- The interrupt line is asserted while the latch holds a cause the mask allows (R176). -/
def State.interruptLine (s : State) : Bool :=
  decide (s.regs.latch.inter s.regs.mask ≠ Causes.empty)

/-! ### Guard reasons (section 2.5) -/

/-- No reason to keep the head dark. -/
def Guard.isEmpty (g : Guard) : Bool :=
  !g.transit && !g.parked && !g.blackout && !g.fault

/-- Guard-reason bits of a head mirror entry (11.1). -/
def Guard.toNat (g : Guard) : Nat :=
  g.transit.toNat + 2 * g.parked.toNat + 4 * g.blackout.toNat + 8 * g.fault.toNat

/-! ### Counters (R13, R110) -/

/-- Count one more: at 127 the counter stays and its overflow flag is set. -/
def Counter.bump (c : Counter) : Counter :=
  if c.count < Config.counterTop then { c with count := c.count + 1 } else { c with overflow := true }

/-- A counter reset. -/
def Counter.zero : Counter := ⟨0, false⟩

end Sys2Proof.Machine
end

