-- ==== Sys2Proof/Machine/Formats.lean ====
section
/-! DEFINITION. The byte layouts of chapter 11: values in the register window and the show region (least significant
byte first) and in head link frames (most significant byte first), the CRC of R114, mirror entries, header updates,
record answers and result areas, the frames the part sends and the replies it takes. -/

namespace Sys2Proof.Machine

/-! ### Values (R177) -/

/-- The low byte of a number. -/
def byteOf (n : Nat) : Byte := BitVec.ofNat 8 n

/-- Two bytes, least significant first. -/
def le16 (n : Nat) : List Byte := [byteOf n, byteOf (n / 256)]
/-- Four bytes, least significant first. -/
def le32 (n : Nat) : List Byte := le16 n ++ le16 (n / 65536)
/-- Eight bytes, least significant first. -/
def le64 (n : Nat) : List Byte := le32 n ++ le32 (n / 4294967296)
/-- Two bytes, most significant first. -/
def be16 (n : Nat) : List Byte := [byteOf (n / 256), byteOf n]
/-- Four bytes, most significant first. -/
def be32 (n : Nat) : List Byte := be16 (n / 65536) ++ be16 n

/-- Two's complement of an integer in 16 bits. -/
def wrap16 (i : Int) : Nat := (i % 65536).toNat
/-- Two's complement of an integer in 32 bits. -/
def wrap32 (i : Int) : Nat := (i % 4294967296).toNat

/-- The byte at a place. -/
def rd8 (b : List Byte) (i : Nat) : Nat := (b.getD i 0).toNat
/-- The two bytes at a place, least significant first. -/
def rd16 (b : List Byte) (i : Nat) : Nat := rd8 b i + 256 * rd8 b (i + 1)
/-- The four bytes at a place, least significant first. -/
def rd32 (b : List Byte) (i : Nat) : Nat := rd16 b i + 65536 * rd16 b (i + 2)
/-- The eight bytes at a place, least significant first. -/
def rd64 (b : List Byte) (i : Nat) : Nat := rd32 b i + 4294967296 * rd32 b (i + 4)
/-- The two bytes at a place, most significant first. -/
def rdBe16 (b : List Byte) (i : Nat) : Nat := 256 * rd8 b i + rd8 b (i + 1)
/-- The four bytes at a place, most significant first. -/
def rdBe32 (b : List Byte) (i : Nat) : Nat := 65536 * rdBe16 b i + rdBe16 b (i + 2)

/-- The signed reading of a byte. -/
def signed8 (n : Nat) : Int := if n < 128 then n else (n : Int) - 256
/-- The signed reading of 16 bits. -/
def signed16 (n : Nat) : Int := if n < 32768 then n else (n : Int) - 65536

/-- A flag byte: set when it holds any value other than 0. -/
def rdFlag (b : List Byte) (i : Nat) : Bool := rd8 b i != 0
/-- A named bit of a bit field. -/
def rdBit (b : List Byte) (i k : Nat) : Bool := (rd8 b i).testBit k

/-! ### Value tables (11.1) -/

/-- Record states. -/
def RecState.code : RecState → Nat
  | .blank => 0 | .posted => 1 | .taken => 2 | .done => 3 | .refused => 4 | .cancelled => 5 | .passed => 6

/-- A final state: the record's answer is complete (R164). -/
def RecState.final : RecState → Bool
  | .done | .refused | .cancelled | .passed => true
  | .blank | .posted | .taken => false

/-- Result codes. -/
def ResultCode.code : ResultCode → Nat
  | .ok => 0 | .malformed => 1 | .unknownKind => 2 | .noProfile => 3 | .bound => 4 | .inUse => 5 | .notPatched => 6
  | .full => 7 | .duplicateTag => 8 | .notFound => 9 | .notPending => 10 | .wrongState => 11

/-- Engine states. -/
def EngineState.code : EngineState → Nat
  | .idle => 0 | .reading => 1 | .paused => 2 | .busPaused => 3

/-- Chain conditions. -/
def ChainCondition.code : ChainCondition → Nat
  | .clear => 0 | .waiting => 1 | .broken => 2 | .stuck => 3

/-- Last START outcomes. -/
def StartOutcome.code : StartOutcome → Nat
  | .none => 0 | .pending => 1 | .ok => 2 | .baseMisaligned => 3 | .sizeInvalid => 4 | .headerBusError => 5
  | .mirrorPlacement => 6

/-- Clock states. -/
def ClockState.code : ClockState → Nat
  | .halted => 0 | .internal => 1 | .seeking => 2 | .locked => 3 | .freewheel => 4 | .held => 5

/-- Availability states. -/
def Avail.code : Avail → Nat
  | .unpatched => 0 | .identifying => 1 | .mismatch => 2 | .active => 3 | .lost => 4 | .fault => 5 | .offline => 6

/-- Lamp states. -/
def Lamp.code : Lamp → Nat
  | .off => 0 | .striking => 1 | .lit => 2 | .cooling => 3

/-- Line states. -/
def LineState.code : LineState → Nat
  | .disabled => 0 | .running => 1 | .backoff => 2 | .jammed => 3

/-- Move outcomes, NONE being 0. -/
def outcomeCode : Option MoveOutcome → Nat
  | none => 0 | some .reached => 1 | some .headRefused => 2 | some .failed => 3 | some .stalled => 4
  | some .overtaken => 5 | some .lost => 6 | some .lineDown => 7 | some .fault => 8 | some .unpatched => 9

/-- Refusal reasons. -/
def Refused.code : Refused → Nat
  | .none => 0 | .range => 1 | .path => 2 | .headRange => 3 | .headMotor => 4 | .lamp => 5

/-- Fault causes. -/
def FaultCause.code : FaultCause → Nat
  | .none => 0 | .motor => 1 | .lamp => 2 | .powerLow => 3 | .overheat => 4 | .stall => 5

/-! ### The register window (11.2, R178) -/

/-- What a read of CONTROL returns (R155, R178). -/
def State.controlWord (s : State) : Word :=
  BitVec.ofNat 32 (s.chain.engine.code + 4 * s.regs.blackout.toNat + 16 * s.chain.condition.code +
    256 * s.chain.outcome.code)

/-- What a read of the window returns, but for the taking that a read of ATTENTION_TAKE makes: an access of another
width than four bytes or at another offset returns 0 (R178). -/
def State.readRegister (s : State) (offset width : Nat) : Word :=
  if width ≠ 4 then 0 else
  if offset = 0x00 then s.controlWord else
  if offset = 0x08 then s.regs.regionBase.setWidth 32 else
  if offset = 0x0C then (s.regs.regionBase >>> 32).setWidth 32 else
  if offset = 0x10 then s.regs.regionSize else
  if offset = 0x14 then BitVec.ofNat 32 s.regs.scanPeriod else
  if offset = 0x18 then s.regs.latch.toWord else
  if offset = 0x1C then s.regs.latch.toWord else
  if offset = 0x20 then s.regs.mask.toWord else 0

/-! ### Answers and result areas (11.4, R179) -/

/-- A result area: the bytes given, then zeros up to 16. -/
def resultArea (b : List Byte) : List Byte := (b ++ List.replicate 16 0).take 16

/-- The result area of a CUE in a final state (R151). -/
def cueArea (fireShow lateness : Nat) (c : Counts) (late skipped : Bool) : List Byte :=
  resultArea (le32 fireShow ++ le16 lateness ++ [byteOf c.reached, byteOf c.applied, byteOf c.deferred,
    byteOf c.refused, byteOf c.overtaken, byteOf c.failed, byteOf (late.toNat + 2 * skipped.toNat)])

/-- The bytes of an update's result write: the result field and, for a final state, the result area. -/
def Update.resultBytes (u : Update) : List Byte :=
  le16 u.code.code ++ (if u.state.final then resultArea u.area else [])

/-- The byte of an update's state write. -/
def Update.stateBytes (u : Update) : List Byte := [byteOf u.state.code]

/-- The 18 bytes of a header update (11.3). -/
def Sample.bytes (p : Sample) : List Byte :=
  le64 p.follow ++ le32 p.takenCount.toNat ++ le32 p.showTime ++ [byteOf p.clock.code, byteOf p.engine.code]

/-! ### Mirror entries (11.5, R173) -/

/-- A head mirror entry of 32 bytes; a field whose presence bit is clear is 0. -/
def headEntryBytes (stamp : BitVec 16) (h : Head) : List Byte :=
  let (ln, ad, pr) := match h.binding with
    | some b => (b.line.val, b.address.val + 1, b.profile.val)
    | none => (0, 0, 0)
  let (pan, tilt, sq) := match h.accepted with
    | some a => (a.point.pan, a.point.tilt, a.seq)
    | none => (0, 0, none)
  let bits := h.settled.toNat + 2 * h.binding.isSome.toNat + 4 * h.accepted.isSome.toNat + 8 * sq.isSome.toNat +
    16 * h.lastCueTag.isSome.toNat + 32 * h.missTotal.overflow.toNat
  le16 stamp.toNat ++ [byteOf h.avail.code, byteOf h.lamp.code, byteOf ln, byteOf ad, byteOf pr, byteOf bits,
    byteOf h.guard.toNat, byteOf (outcomeCode h.lastOutcome), byteOf h.lastRefused.code, byteOf h.faultCause.code,
    byteOf h.missTotal.count, sq.getD 0, 0, 0] ++ le32 (wrap32 pan) ++ le32 (wrap32 tilt) ++
    le32 (h.lastCueTag.getD 0).toNat ++ [0, 0, 0, 0]

/-- A line mirror entry of 32 bytes. That a set echo check is written as 1 is the model's choice among the values other
than 0 (R177; log 37). -/
def lineEntryBytes (stamp : BitVec 16) (l : Line) : List Byte :=
  le16 stamp.toNat ++ [byteOf l.state.code, byteOf l.echo.toNat] ++ le16 l.refresh ++ le16 l.poll ++
    [byteOf l.collisions.count, byteOf l.misses.count, byteOf l.checkErrors.count,
      byteOf (l.collisions.overflow.toNat + 2 * l.misses.overflow.toNat + 4 * l.checkErrors.overflow.toNat)] ++
    List.replicate 20 0

/-! ### Head link frames (11.6) -/

/-- One bit of the CRC's register, the polynomial being x^16 + x^12 + x^5 + 1 (R114). -/
def crcShift (c : BitVec 16) : BitVec 16 :=
  if c.msb then (c <<< 1) ^^^ 0x1021#16 else c <<< 1

/-- One byte into the CRC's register, most significant bit first (R114). -/
def crcByte (c : BitVec 16) (b : Byte) : BitVec 16 :=
  (List.range 8).foldl (fun c _ => crcShift c) (c ^^^ (b.setWidth 16 <<< 8))

/-- The CRC of a frame: over its bytes, from all ones, without inversion (R114). -/
def crc16 (b : List Byte) : BitVec 16 :=
  b.foldl crcByte 0xFFFF#16

/-- A frame: address, kind, sequence, payload length, payload, CRC high byte first. -/
def frameBytes (address kind : Nat) (seq : Seq) (payload : List Byte) : List Byte :=
  let body := [byteOf address, byteOf kind, seq, byteOf payload.length] ++ payload
  body ++ be16 (crc16 body).toNat

/-- The address byte of an address index. -/
def AddrIx.wire (a : AddrIx) : Nat := a.val + 1

/-- The µs a frame of n payload bytes takes on the wire (R112). -/
def frameMicros (n : Nat) : Nat := 70 + 20 * (6 + n)

/-- Kind codes of the exchanged commands. -/
def ExKind.code : ExKind → Nat
  | .aim => 0x01 | .poll => 0x03 | .ident => 0x04 | .strike => 0x05 | .douse => 0x06 | .clear => 0x07

/-- An AIM frame: head-native angles, move time, staged byte, latch number or 0 (R60, R180). That a set staged flag is sent
as 1 is the model's choice among the values other than 0 (R177; log 37). -/
def aimFrame (a : AddrIx) (seq : Seq) (native : Point) (time : Nat) (staged : Bool) (latch : Option SlotIx) :
    List Byte :=
  frameBytes a.wire 0x01 seq (be16 (wrap16 native.pan) ++ be16 (wrap16 native.tilt) ++ be32 time ++
    [byteOf staged.toNat, byteOf (if staged then (latch.map Fin.val).getD 0 else 0)])

/-- The bytes one component places on the wire (R6): shifted right, then whole or its upper byte. -/
def componentBytes (c : Component) (value : Nat) : List Byte :=
  let v := value / 2 ^ c.shift
  if c.width = 16 then be16 v else [byteOf (v / 256)]

/-- The colour transform (R6): the wire slots in ascending number, each in the width of the component placed in it. -/
def colourBytes (cs : List Component) (out : Colour) : List Byte :=
  (List.range cs.length).flatMap fun w =>
    match cs.zipIdx.find? (fun ck => ck.1.wire == w) with
    | some (c, k) => componentBytes c (out.toList.getD k 0)
    | none => []

/-- A LOOK frame (R122); its sequence byte is 0 (R118). -/
def lookFrame (a : AddrIx) (cs : List Component) (out : Colour) (intensity : Nat) : List Byte :=
  frameBytes a.wire 0x02 0 (colourBytes cs out ++ be16 intensity)

/-- A LATCH broadcast (R105); its sequence byte is 0 (R118). -/
def latchFrame (n : SlotIx) : List Byte :=
  frameBytes 0 0x08 0 [byteOf n.val]

/-- A frame without a payload: POLL, IDENT, STRIKE, DOUSE or CLEAR. -/
def plainFrame (a : AddrIx) (k : ExKind) (seq : Seq) : List Byte :=
  frameBytes a.wire k.code seq []

/-! ### Replies (11.6, R113 to R115, R180) -/

/-- REFUSE reasons; a value other than 2 and 3 is taken as RANGE (R180). -/
inductive Reason
  | range | motor | lamp
  deriving DecidableEq, Repr

/-- A DESCRIPTOR's fields but the firmware level, which the part does not use (R124). -/
structure Descriptor where
  model : BitVec 32
  native : Point
  atRest : Bool
  lit : Bool
  lockout : Nat
  deriving DecidableEq, Repr

/-- A STATUS's fields (R123). -/
structure Status where
  present : Bool
  reached : Bool
  seq : Seq
  fault : FaultCause
  deriving DecidableEq, Repr

/-- The four replies. -/
inductive ReplyBody
  | accept (travel : Nat)
  | refuse (reason : Reason)
  | status (t : Status)
  | descriptor (d : Descriptor)
  deriving DecidableEq, Repr

/-- A reply that passed its check. -/
structure Reply where
  address : Nat
  seq : Seq
  body : ReplyBody
  deriving DecidableEq, Repr

/-- A STATUS fault code; one above 4 is taken as MOTOR (R180). -/
def faultOfCode (n : Nat) : FaultCause :=
  if n = 0 then .none else if n = 2 then .lamp else if n = 3 then .powerLow else if n = 4 then .overheat else .motor

/-- A REFUSE reason (R180). -/
def reasonOfCode (n : Nat) : Reason :=
  if n = 2 then .motor else if n = 3 then .lamp else .range

/-- The payload of a reply by its kind and payload length; none for another kind or length (R115). -/
def decodePayload (kind : Nat) (p : List Byte) : Option ReplyBody :=
  if kind = 0x81 ∧ p.length = 4 then some (.accept (rdBe32 p 0))
  else if kind = 0x82 ∧ p.length = 1 then some (.refuse (reasonOfCode (rd8 p 0)))
  else if kind = 0x83 ∧ p.length = 3 then
    some (.status ⟨rdBit p 0 0, rdBit p 0 1, p.getD 1 0, faultOfCode (rd8 p 2)⟩)
  else if kind = 0x84 ∧ p.length = 13 then
    some (.descriptor ⟨BitVec.ofNat 32 (rdBe32 p 0), ⟨signed16 (rdBe16 p 6), signed16 (rdBe16 p 8)⟩,
      rdBit p 10 0, rdBit p 10 1, rdBe16 p 11⟩)
  else none

/-- A received frame taken as a reply: received whole (R113), its CRC right (R114), its kind and length those of a
reply (R115). -/
def decodeReply (f : List Byte) : Option Reply :=
  let n := rd8 f 3
  if n ≤ 16 ∧ f.length = n + 6 ∧ rdBe16 f (n + 4) = (crc16 (f.take (n + 4))).toNat then
    (decodePayload (rd8 f 1) ((f.drop 4).take n)).map fun b => ⟨rd8 f 0, f.getD 2 0, b⟩
  else none

end Sys2Proof.Machine
end

