-- ==== Sys2Proof/Machine/Operands.lean ====
section
/-! DEFINITION. What the part reads from the show region (11.3, 11.4): links, record heads, the bodies of every kind,
and the lengths they have. -/

namespace Sys2Proof.Machine

/-- A record head of 32 bytes read at an offset. -/
def parseHead (offset : Nat) (b : List Byte) : RecordHead where
  offset := offset
  next := rd64 b 0
  tag := BitVec.ofNat 32 (rd32 b 8)
  state := rd8 b 0x0C
  kind := rd8 b 0x0D

/-- The body length of a kind, for a CUE its fixed part; none for an unknown kind (11.4). -/
def bodyLength (kind : Nat) : Option Nat :=
  match kind with
  | 1 => some 16
  | 2 => some 8
  | 3 => some 40
  | 4 => some 8
  | 5 => some 8
  | 6 => some 8
  | 7 => some 48
  | 8 => some 52
  | 9 => some 8
  | 10 => some 16
  | _ => none

/-- The entry count of a CUE body's fixed part. -/
def cueCount (fixed : List Byte) : Nat := rd16 fixed 6

/-- The bytes a CUE's entries take: none for a count outside 1 to 64 (R163). -/
def cueEntryBytes (count : Nat) : Nat := if 1 ≤ count ∧ count ≤ 64 then 32 * count else 0

/-- Six 16-bit values from a place on. -/
def rdValues (b : List Byte) (i : Nat) : Vector Nat 6 :=
  Vector.ofFn fun k => rd16 b (i + 2 * k.val)

/-- One CUE head entry at a place. -/
def parseEntry (b : List Byte) (i : Nat) : EntryRec where
  head := rd16 b i
  position := rdBit b (i + 2) 0
  colour := rdBit b (i + 2) 1
  beam := rdBit b (i + 2) 2
  lamp := rd8 b (i + 3)
  pan := signed16 (rd16 b (i + 4))
  tilt := signed16 (rd16 b (i + 6))
  moveTime := rd16 b (i + 8)
  colourCount := rd8 b (i + 0x0A)
  colourFade := rd16 b (i + 0x0C)
  intensity := rd16 b (i + 0x0E)
  beamFade := rd16 b (i + 0x10)
  values := rdValues b (i + 0x12)

/-- A CUE body: its fixed part and its entries' bytes. -/
def parseCue (fixed entries : List Byte) : CueRec where
  layer := rd8 fixed 0
  goPresent := rdFlag fixed 1
  skip := rd8 fixed 2
  together := rdFlag fixed 3
  latchWait := rd16 fixed 4
  count := cueCount fixed
  goTime := rd32 fixed 8
  entries := (List.range (entries.length / 32)).map fun k => parseEntry entries (32 * k)

/-- Eight head ranges from a place on. -/
def parseRanges (b : List Byte) (i : Nat) : List (Nat × Nat) :=
  (List.range 8).map fun k => (rd16 b (i + 4 * k), rd16 b (i + 4 * k + 2))

/-- A RELEASE body. -/
def parseRelease (b : List Byte) : ReleaseRec where
  layer := rd8 b 0
  position := rdBit b 1 0
  colour := rdBit b 1 1
  beam := rdBit b 1 2
  count := rd8 b 2
  fade := rd16 b 4
  ranges := parseRanges b 8

/-- A PATCH body. -/
def parsePatch (b : List Byte) : PatchRec where
  head := rd16 b 0
  line := rd8 b 2
  address := rd8 b 3
  profile := rd8 b 4
  panSign := signed8 (rd8 b 5)
  tiltSign := signed8 (rd8 b 6)

/-- A PROFILE body. -/
def parseProfile (b : List Byte) : ProfileRec where
  slot := rd8 b 0
  remove := rdFlag b 1
  lampKind := rd8 b 2
  count := rd8 b 3
  model := BitVec.ofNat 32 (rd32 b 4)
  panMin := signed16 (rd16 b 8)
  panMax := signed16 (rd16 b 0x0A)
  tiltMin := signed16 (rd16 b 0x0C)
  tiltMax := signed16 (rd16 b 0x0E)
  panSpeed := rd16 b 0x10
  tiltSpeed := rd16 b 0x12
  strike := rd8 b 0x14
  cooling := rd16 b 0x16
  components := (List.range 6).map fun k => (rd8 b (0x18 + k), rd8 b (0x1E + k), rd8 b (0x24 + k))

/-- A SECTOR body. -/
def parseSector (b : List Byte) : SectorRec where
  slot := rd8 b 0
  remove := rdFlag b 1
  armed := rdFlag b 2
  policy := rd8 b 3
  panMin := signed16 (rd16 b 4)
  panMax := signed16 (rd16 b 6)
  tiltMin := signed16 (rd16 b 8)
  tiltMax := signed16 (rd16 b 0x0A)
  wayPan := signed16 (rd16 b 0x0C)
  wayTilt := signed16 (rd16 b 0x0E)
  count := rd8 b 0x10
  ranges := parseRanges b 0x14

/-- A LINE body. -/
def parseLine (b : List Byte) : LineRec where
  line := rd8 b 0
  enable := rdFlag b 1
  echo := rdFlag b 2
  resetCounters := rdFlag b 3
  refresh := rd16 b 4
  poll := rd16 b 6

/-- A CLOCK body. -/
def parseClock (b : List Byte) : ClockRec where
  command := rd8 b 0
  run := rdFlag b 1
  rate := rd8 b 2
  start := rd32 b 4
  limit := rd16 b 8
  threshold := rd16 b 0x0A

/-- The body of a record other than a CUE, by its kind. -/
def parseBody (kind : Nat) (b : List Byte) : RecordBody :=
  match kind with
  | 2 => .cancel (BitVec.ofNat 32 (rd32 b 0))
  | 3 => .release (parseRelease b)
  | 4 => .patch (parsePatch b)
  | 5 => .unpatch (rd16 b 0)
  | 6 => .clearHead (rd16 b 0)
  | 7 => .profile (parseProfile b)
  | 8 => .sector (parseSector b)
  | 9 => .line (parseLine b)
  | 10 => .clock (parseClock b)
  | _ => .unknown

/-- The length of a read. -/
def ReadOp.length : ReadOp → Nat
  | .header => Config.headerBytes
  | .link _ => 8
  | .head _ => Config.recordHeadBytes
  | .body h => (bodyLength h.kind).getD 0
  | .cueFixed _ => 16
  | .cueEntries _ fixed => cueEntryBytes (cueCount fixed)

/-- The region offset of a read. -/
def ReadOp.offset : ReadOp → Nat
  | .header => 0
  | .link o => o
  | .head o => o
  | .body h => h.offset + Config.recordHeadBytes
  | .cueFixed h => h.offset + Config.recordHeadBytes
  | .cueEntries h _ => h.offset + Config.recordHeadBytes + 16

/-- The bytes a write places in the show region (R169, R172, R174, R179). -/
def Access.bytes : Access → List Byte
  | .read _ => []
  | .result u => u.resultBytes
  | .state u => u.stateBytes
  | .mirror _ _ b => b
  | .header p => p.bytes

/-- The region offset of an access; a mirror entry's depends on the kept region (R169, R172, R174). -/
def Access.offset (r : Region) : Access → Nat
  | .read op => op.offset
  | .result u => u.offset + 0x0E
  | .state u => u.offset + 0x0C
  | .mirror e _ _ => if e.val < 512 then r.headMirror + 32 * e.val else r.lineMirror + 32 * (e.val - 512)
  | .header _ => 0x20

end Sys2Proof.Machine
end

