-- ==== Sys2Proof/Machine/Ops.lean ====
section
/-! DEFINITION. The named operations that the blocks share: writing a head context or a line so
that the mirror marks (R22, R111) and refresh due times (R97) follow; the command queues (R92 to R96); how moves end
and what their endings do to running slots and gatherings (R80, R83, R84, R87, R94, R146, R149). -/

namespace Sys2Proof.Machine

/-- Engine time: whole milliseconds since card reset. -/
def State.now (s : State) : Nat := s.micros / Config.microsPerMilli

/-- What a command answers. -/
abbrev Result := Host.Outcome State Fault Refusal

/-! ### Marks -/

/-- The mirror entry of a head. -/
def headEntry (h : HeadIx) : MirrorIx := ⟨h.val, by omega⟩

/-- The mirror entry of a line. -/
def lineEntry (l : LineIx) : MirrorIx := ⟨512 + l.val, by omega⟩

/-- Set a dirty mark (R170). -/
def Rig.mark (r : Rig) (e : MirrorIx) : Rig := { r with marks := upd r.marks e true }

/-- What a head mirror entry carries of a head context (R22, R173). -/
structure HeadView where
  avail : Avail
  lamp : Lamp
  settled : Bool
  guard : Guard
  accepted : Option Accepted
  lastOutcome : Option MoveOutcome
  lastRefused : Refused
  lastCueTag : Option Tag
  missTotal : Counter
  faultCause : FaultCause
  binding : Option (LineIx × AddrIx × ProfileIx)
  deriving DecidableEq, Repr

/-- The fields of a head context that its mirror entry carries (R22). -/
def Head.mirrored (h : Head) : HeadView where
  avail := h.avail
  lamp := h.lamp
  settled := h.settled
  guard := h.guard
  accepted := h.accepted
  lastOutcome := h.lastOutcome
  lastRefused := h.lastRefused
  lastCueTag := h.lastCueTag
  missTotal := h.missTotal
  faultCause := h.faultCause
  binding := h.binding.map fun b => (b.line, b.address, b.profile)

/-- The values a line mirror entry carries (R111). -/
def Line.mirrored (l : Line) : LineState × Bool × Nat × Nat × Counter × Counter × Counter :=
  (l.state, l.echo, l.refresh, l.poll, l.collisions, l.misses, l.checkErrors)

/-- A line replaced: its entry is marked when a carried value changed (R111). -/
def Rig.putLine (r : Rig) (l : LineIx) (x : Line) : Rig :=
  let r' := { r with lines := upd r.lines l x }
  if (r.lines.get l).mirrored = x.mirrored then r' else r'.mark (lineEntry l)

/-- A line changed. -/
def Rig.modLine (r : Rig) (l : LineIx) (f : Line → Line) : Rig := r.putLine l (f (r.lines.get l))

/-! ### Head contexts -/

/-- The head takes LOOK frames: ACTIVE or FAULT (section 1.4). -/
def Avail.lookable : Avail → Bool
  | .active | .fault => true
  | .unpatched | .identifying | .mismatch | .lost | .offline => false

/-- A head's refresh due time after its context changes (R97): it becomes absent on leaving ACTIVE and FAULT, now on
entry, and the earlier of itself and now when the guard-reason set becomes or stops being empty (R29). -/
def followDue (now : Nat) (before after : Head) (due : Option Nat) : Option Nat :=
  if before.avail.lookable = after.avail.lookable then
    if after.avail.lookable = false ∨ before.guard.isEmpty = after.guard.isEmpty then due else due.map (min now)
  else if after.avail.lookable then some now else none

/-- A head context replaced: its entry is marked when a carried field changed (R22), and its refresh due time follows
(R97). -/
def Rig.putHead (now : Nat) (r : Rig) (i : HeadIx) (h : Head) : Rig :=
  let old := r.heads.get i
  let r := { r with heads := upd r.heads i h }
  let r := if old.mirrored = h.mirrored then r else r.mark (headEntry i)
  match h.binding.or old.binding with
  | none => r
  | some b =>
    let x := r.lines.get b.line
    r.putLine b.line { x with
      refreshDue := upd x.refreshDue b.address (followDue now old h (x.refreshDue.get b.address)) }

/-- A head context changed. -/
def Rig.modHead (now : Nat) (r : Rig) (i : HeadIx) (f : Head → Head) : Rig := r.putHead now i (f (r.heads.get i))

/-- A change to what no mirror entry and no refresh due time depends on: the move record's own course, the next AIM
sequence, cells and transitions. -/
def Rig.touchHead (r : Rig) (i : HeadIx) (f : Head → Head) : Rig :=
  { r with heads := upd r.heads i (f (r.heads.get i)) }

/-- A look change (R29): the head's refresh is due now (R97). On a head that takes no LOOK it has no effect. -/
def Rig.lookChange (now : Nat) (r : Rig) (h : HeadIx) : Rig :=
  if !(r.heads.get h).avail.lookable then r
  else match (r.heads.get h).binding with
  | none => r
  | some b => r.modLine b.line fun x =>
    { x with refreshDue := upd x.refreshDue b.address ((x.refreshDue.get b.address).map (min now)) }

/-- The heads bound to a line, in ascending address order (R2, R20). -/
def Line.bound (x : Line) : List HeadIx := (List.finRange 32).filterMap fun a => x.addrMap.get a

/-- The profile of a patched head. -/
def Rig.profileOf (r : Rig) (h : HeadIx) : Option Profile :=
  match (r.heads.get h).binding with
  | some b => r.profiles.get b.profile
  | none => none

/-! ### Command queues (R92 to R96) -/

/-- In service: RUNNING or BACKOFF (R89). -/
def LineState.inService : LineState → Bool
  | .running | .backoff => true
  | .disabled | .jammed => false

/-- The per-head classes (R92). -/
inductive Class
  | motion | lamp | service
  deriving DecidableEq, Repr

/-- The head and class of a command; none for a LATCH. -/
def Command.key : Command → Option (HeadIx × Class)
  | .aim h => some (h, .motion)
  | .lamp h _ => some (h, .lamp)
  | .service h _ => some (h, .service)
  | .latch _ => none

/-- An owed mark of a class stands (R93). -/
def Owed.has (o : Owed) : Class → Bool
  | .motion => o.motion
  | .lamp => o.lamp.isSome
  | .service => o.service.isSome

/-- The owed mark of a command's class names the command (R92). -/
def Owed.set (o : Owed) : Command → Owed
  | .aim _ => { o with motion := true }
  | .lamp _ c => { o with lamp := some c }
  | .service _ c => { o with service := some c }
  | .latch _ => o

/-- The owed mark of a command's class removed. -/
def Owed.clear (o : Owed) : Command → Owed
  | .aim _ => { o with motion := false }
  | .lamp _ _ => { o with lamp := Option.none }
  | .service _ _ => { o with service := Option.none }
  | .latch _ => o

/-- The commands a head's owed marks stand for: MOTION, then LAMP, then SERVICE (R95). -/
def Owed.commands (o : Owed) (h : HeadIx) : List Command :=
  (if o.motion then [.aim h] else []) ++ (o.lamp.map (Command.lamp h)).toList ++
    (o.service.map (Command.service h)).toList

/-- The line's owed marks as commands, by ascending address (R95). -/
def Line.owedCommands (x : Line) : List (AddrIx × Command) :=
  (List.finRange 32).flatMap fun a =>
    match x.addrMap.get a with
    | some h => ((x.owed.get a).commands h).map fun c => (a, c)
    | none => []

/-- Free queue places are filled from the latch overflow, oldest first, then from the owed marks (R95). -/
def Line.refill (x : Line) : Line :=
  let q := x.queue ++ (x.overflow.take (Config.queuePlaces - x.queue.length)).map Command.latch
  let t := x.owedCommands.take (Config.queuePlaces - q.length)
  { x with
    queue := q ++ t.map Prod.snd
    overflow := x.overflow.drop (Config.queuePlaces - x.queue.length)
    owed := t.foldl (fun o ac => upd o ac.1 ((o.get ac.1).clear ac.2)) x.owed }

/-- A request for the head at an address (R92): it replaces a queued command of its class in place, or an owed mark;
otherwise it joins the queue, or is owed when the queue is full. A line out of service discards it. -/
def Line.request (x : Line) (a : AddrIx) (c : Command) : Line :=
  if !x.state.inService then x
  else match c.key with
  | none => x
  | some k =>
    if x.queue.any (fun d => d.key == some k) then
      { x with queue := x.queue.map fun d => if d.key == some k then c else d }
    else if (x.owed.get a).has k.2 || decide (Config.queuePlaces ≤ x.queue.length) then
      { x with owed := upd x.owed a ((x.owed.get a).set c) }
    else { x with queue := x.queue ++ [c] }

/-- A withdrawal (R96): the queued commands and the owed marks at an address that a test names, then the refill. -/
def Line.withdraw (x : Line) (a : AddrIx) (h : HeadIx) (p : Command → Bool) : Line :=
  let o := x.owed.get a
  let o' := ((o.commands h).filter p).foldl Owed.clear o
  { x with queue := x.queue.filter (fun c => !p c), owed := upd x.owed a o' }.refill

/-- Something a test names stands in the queue or owed at an address. -/
def Line.holds (x : Line) (a : AddrIx) (h : HeadIx) (p : Command → Bool) : Bool :=
  x.queue.any p || ((x.owed.get a).commands h).any p

/-- The queue, the owed marks and the latch overflow emptied (R96). -/
def Line.purge (x : Line) : Line :=
  { x with queue := [], owed := Vector.replicate 32 Owed.none, overflow := [] }

/-- The LATCH of a number is on the wire. -/
def Work.sendsLatch (w : Work) (n : SlotIx) : Bool :=
  match w with
  | .latch m (some _) _ => m == n
  | _ => false

/-- Every LATCH of a number withdrawn: queued, in overflow, held for resending (R87, R96). One on the wire completes, and
is marked so that a collision does not hold it (log 16). -/
def Line.withdrawLatch (x : Line) (n : SlotIx) : Line :=
  { x with
    queue := x.queue.filter (fun c => c != Command.latch n)
    overflow := x.overflow.filter (fun m => m != n)
    latchSpent := x.latchSpent || x.work.sendsLatch n
    work := match x.work with
      | .latch m none f => if m = n then .idle else .latch m none f
      | w => w }.refill

/-- A request for a patched head's line (R92). -/
def Rig.request (r : Rig) (h : HeadIx) (c : Command) : Rig :=
  match (r.heads.get h).binding with
  | none => r
  | some b => r.modLine b.line fun x => x.request b.address c

/-- A withdrawal from a patched head's line (R96). -/
def Rig.withdraw (r : Rig) (h : HeadIx) (p : Command → Bool) : Rig :=
  match (r.heads.get h).binding with
  | none => r
  | some b => r.modLine b.line fun x => x.withdraw b.address h p

/-- Something a test names is queued or owed for a patched head. -/
def Rig.holds (r : Rig) (h : HeadIx) (p : Command → Bool) : Bool :=
  match (r.heads.get h).binding with
  | none => false
  | some b => (r.lines.get b.line).holds b.address h p

/-- A command of a head, of any class. -/
def Command.names (h : HeadIx) (c : Command) : Bool :=
  match c.key with
  | some (i, _) => i == h
  | none => false

/-- Stop an exchange (R104): one waiting to transmit ends at once, another makes no further attempts. -/
def Work.stop (w : Work) (p : Exchange → Bool) (orphan : Bool) : Work :=
  match w with
  | .exchange x =>
    if p x then
      match x.phase with
      | .retransmit | .nextAttempt => .idle
      | .transmitting _ | .window _ => .exchange { x with stopped := true, orphaned := x.orphaned || orphan }
    else .exchange x
  | w => w

/-- Stop the AIM exchange in progress for a head, if there is one (R81, R104). -/
def Rig.stopAim (r : Rig) (h : HeadIx) : Rig :=
  match (r.heads.get h).binding with
  | none => r
  | some b => r.modLine b.line fun x =>
    { x with work := x.work.stop (fun e => e.kind == .aim && e.head == h) false }

/-! ### Boxes (R50) -/

/-- A point as a box. -/
def Point.box (p : Point) : Box := ⟨p.pan, p.pan, p.tilt, p.tilt⟩

/-- The box that covers two boxes. -/
def Box.cover (a b : Box) : Box :=
  ⟨min a.panMin b.panMin, max a.panMax b.panMax, min a.tiltMin b.tiltMin, max a.tiltMax b.tiltMax⟩

/-- The hull box widened by a target; a hull that is absent becomes the target's point. -/
def Head.widen (h : Head) (p : Point) : Head :=
  { h with hull := some (match h.hull with | some b => b.cover p.box | none => p.box) }

/-- The leg whose AIM is queued, on the wire, staged or travelling (R59). -/
def Move.leg (m : Move) : Leg :=
  match m.current, m.leg2 with
  | .second, some l => l
  | .second, none => m.leg1
  | .first, _ => m.leg1

/-- A change to the current leg. -/
def Move.modLeg (m : Move) (f : Leg → Leg) : Move :=
  match m.current, m.leg2 with
  | .second, some l => { m with leg2 := some (f l) }
  | .second, none => { m with leg1 := f m.leg1 }
  | .first, _ => { m with leg1 := f m.leg1 }

/-! ### Running slots and gatherings -/

/-- A slot that is not FREE changed. -/
def Rig.modSlot (r : Rig) (k : SlotIx) (f : Running → Running) : Rig :=
  { r with slots := upd r.slots k ((r.slots.get k).map f) }

/-- The count a move outcome raises (R146). -/
def Counts.report (c : Counts) : MoveOutcome → Counts
  | .reached => { c with reached := c.reached + 1 }
  | .overtaken => { c with overtaken := c.overtaken + 1 }
  | .headRefused => { c with refused := c.refused + 1 }
  | .failed | .stalled | .lost | .fault | .lineDown | .unpatched => { c with failed := c.failed + 1 }

/-- A move outcome reported to its slot (R146). -/
def Running.report (o : MoveOutcome) (x : Running) : Running :=
  { x with outstanding := x.outstanding - 1, counts := x.counts.report o }

/-- Every LATCH of a number withdrawn from every line (R87). -/
def Rig.withdrawLatch (r : Rig) (n : SlotIx) : Rig :=
  { r with lines := r.lines.map fun x => x.withdrawLatch n }

/-- Retirement (R149): a RUNNING slot with no move outstanding and all entries applied becomes RETIRED, its LATCHes are
withdrawn, and its final update is offered to the Write-Back Unit. -/
def Rig.retireIfDone (r : Rig) (k : SlotIx) : Rig :=
  match r.slots.get k with
  | some x =>
    if !x.retired && x.applied && x.outstanding == 0 then
      let r := (r.modSlot k fun x => { x with retired := true }).withdrawLatch k
      { r with offered := r.offered ++ [k] }
    else r
  | none => r

/-- The ending of a move up to its report (R80, steps 1 to 4): the record is removed, the outcome kept, the MOTION
command withdrawn unless the move was overtaken, the AIM exchange of a move ON_WIRE stopped, the outcome counted. -/
def Rig.dropMove (now : Nat) (r : Rig) (h : HeadIx) (m : Move) (o : MoveOutcome) : Rig :=
  let r := r.modHead now h fun x => { x with move := none, lastOutcome := some o }
  let r := if o = .overtaken then r else r.withdraw h (fun c => c == .aim h)
  let r := if m.state = .onWire then r.stopAim h else r
  match m.cue with
  | some k => r.modSlot k (Running.report o)
  | none => r

/-- The moves on a line that are STAGED with a latch number end FAILED for want of room (R94): the head still holds
the staged target. -/
def Rig.failStaged (now : Nat) (r : Rig) (l : LineIx) (n : SlotIx) : Rig :=
  (r.lines.get l).bound.foldl (fun r h =>
    match (r.heads.get h).move with
    | some m =>
      if m.state = .staged ∧ m.latch = some n then
        let r := r.modHead now h fun x => { x.widen m.leg.target with settled := false }
        r.dropMove now h m .failed
      else r
    | none => r) r

/-- A LATCH of a number is held for resending (R105). -/
def Work.holdsLatch (w : Work) (n : SlotIx) : Bool :=
  match w with
  | .latch m none _ => m == n
  | .latch _ (some _) _ => false
  | .idle => false
  | .look _ => false
  | .exchange _ => false

/-- A LATCH request (R94): coalesced, queued, put in overflow, or the STAGED moves it was for end FAILED. -/
def Rig.requestLatch (now : Nat) (r : Rig) (l : LineIx) (n : SlotIx) : Rig :=
  let x := r.lines.get l
  if !x.state.inService then r
  else if x.queue.contains (.latch n) || x.overflow.contains n || x.work.holdsLatch n then r
  else if x.queue.length < Config.queuePlaces then r.modLine l fun x => { x with queue := x.queue ++ [.latch n] }
  else if x.overflow.length < Config.overflowPlaces then r.modLine l fun x => { x with overflow := x.overflow ++ [n] }
  else r.failStaged now l n

/-- A gathering becomes LATCHED (R84): a LATCH for each line of its line set; at its deadline the staged flag of every
PLANNED move of the cue is cleared. -/
def Rig.latchGathering (now : Nat) (r : Rig) (k : SlotIx) (lines : Vector Bool 16) (byDeadline : Bool) : Rig :=
  let r := r.modSlot k fun x => { x with gathering := { x.gathering with state := .latched, deadline := none } }
  let r := ((List.finRange 16).filter fun l => lines.get l).foldl (fun r l => r.requestLatch now l k) r
  if byDeadline then
    { r with heads := r.heads.map fun h =>
      { h with move := h.move.map fun m =>
        if m.cue = some k ∧ m.state = .planned then { m with staged := false } else m } }
  else r

/-- The gather count falls by one, the line being added to the line set at a staging; at 0 the gathering becomes
LATCHED (R83). Nothing happens to a gathering that is not GATHERING. -/
def Rig.gathered (now : Nat) (r : Rig) (k : SlotIx) (line : Option LineIx) : Rig :=
  match r.slots.get k with
  | some x =>
    if x.gathering.state = .gathering then
      let lines := match line with
        | some l => upd x.gathering.lines l true
        | none => x.gathering.lines
      let r := r.modSlot k fun x =>
        { x with gathering := { x.gathering with count := x.gathering.count - 1, lines := lines } }
      if x.gathering.count ≤ 1 then r.latchGathering now k lines false else r
    else r
  | none => r

/-- The move was never staged: PLANNED or ON_WIRE on its first leg (R83). -/
def Move.unstaged (m : Move) : Bool :=
  (m.state == .planned || m.state == .onWire) && m.current == .first

/-- The ending of a head's move, if it holds one (R80), with what it does to its slot's gathering (R83) and the slot's
retirement (R146, R149). -/
def Rig.endMove (now : Nat) (r : Rig) (h : HeadIx) (o : MoveOutcome) : Rig :=
  match (r.heads.get h).move with
  | none => r
  | some m =>
    let r := r.dropMove now h m o
    match m.cue with
    | none => r
    | some k =>
      let r := if m.unstaged then r.gathered now k none else r
      r.retireIfDone k

/-! ### Answers to records, and the write-back list (R163, R164, R168) -/

/-- An owner's answer to a record it was handed: the record's new state, its result code, its result area. -/
structure Answer where
  state : RecState
  code : ResultCode
  area : List Byte
  deriving DecidableEq, Repr

/-- DONE with OK and a result area. -/
def Answer.done (area : List Byte) : Answer := ⟨.done, .ok, resultArea area⟩

/-- REFUSED with a code and an empty result area. -/
def Answer.refused (c : ResultCode) : Answer := ⟨.refused, c, resultArea []⟩

/-- Free places of the write-back list (R168). -/
def WriteBack.free (w : WriteBack) : Nat := Config.writeBackPlaces - w.list.length

/-- The final update of a RETIRED slot's record (R149, R151). -/
def Running.finalUpdate (k : SlotIx) (x : Running) : Update where
  offset := x.offset
  state := .done
  code := .ok
  area := cueArea x.fireShow x.lateness x.counts x.lateFire x.skipped
  slot := some k

/-- The offered updates that find a place are listed, in the order their slots retired (R149, R168). -/
def State.givePlaces (s : State) : State :=
  let ks := s.rig.offered.take s.wb.free
  let us := ks.filterMap fun k => (s.rig.slots.get k).map (Running.finalUpdate k)
  { s with
    wb := { s.wb with list := s.wb.list ++ us }
    rig := { s.rig with offered := s.rig.offered.drop s.wb.free } }

/-- Updates listed at the back (R168). -/
def State.listUpdates (s : State) (us : List Update) : State :=
  { s with wb := { s.wb with list := s.wb.list ++ us } }

/-- The head contexts, lines and slots changed. -/
def State.withRig (s : State) (r : Rig) : State := { s with rig := r }

end Sys2Proof.Machine
end

