-- ==== Sys2Proof/Machine/Layers.lean ====
section
/-! DEFINITION. The mount transform (R5), fades and release transitions (R26, R30), the winning POSITION and the two
outputs (R25, R27, R28), the setting of cells (R24), and lamp requests (R39, R40, R43). -/

namespace Sys2Proof.Machine

/-! ### The mount transform (R5) -/

/-- An angle times a mount sign. -/
def Sign.times : Sign → Int → Int
  | .plus, a => a
  | .minus, a => -a
  | .held, _ => 0

/-- An angle with a held axis replaced by 0. -/
def Sign.effective : Sign → Int → Int
  | .held, _ => 0
  | .plus, a => a
  | .minus, a => a

/-- Stage-relative to head-native, and head-native to stage-relative: the same product per axis (R5). -/
def Binding.turn (b : Binding) (p : Point) : Point := ⟨b.panSign.times p.pan, b.tiltSign.times p.tilt⟩

/-- The effective target of a stage-relative position (R5). -/
def Binding.effective (b : Binding) (p : Point) : Point := ⟨b.panSign.effective p.pan, b.tiltSign.effective p.tilt⟩

/-! ### Fades (R26, R30) -/

/-- A fade evaluated at a given now: from a start toward a target over a duration, rounded toward zero. A release
transition is the same with the remaining value as its target. -/
def fadeAt (start target begun duration now : Nat) : Nat :=
  let elapsed := min (now - begun) duration
  if duration = 0 ∨ elapsed = duration then target
  else ((start : Int) + Int.tdiv (((target : Int) - start) * elapsed) duration).toNat

/-- Six components of 0. -/
def Colour.zero : Colour := Vector.replicate 6 0

/-- A colour fade toward a target, each component on its own. -/
def ColourFade.toward (f : ColourFade) (target : Colour) (now : Nat) : Colour :=
  Vector.ofFn fun k => fadeAt (f.start.get k) (target.get k) f.begun f.duration now

/-- A beam fade toward a target. -/
def BeamFade.toward (f : BeamFade) (target now : Nat) : Nat := fadeAt f.start target f.begun f.duration now

/-- A COLOUR cell evaluated. -/
def ColourCell.value (c : ColourCell) (now : Nat) : Colour := c.fade.toward c.target now

/-- A BEAM cell evaluated. -/
def BeamCell.value (c : BeamCell) (now : Nat) : Nat := c.fade.toward c.target now

/-! ### Outputs (R25, R27, R28) -/

/-- The winning POSITION. -/
def Head.winning (h : Head) : Option PosCell := h.livePos.or h.showPos

/-- The SHOW COLOUR cell evaluated, or zeros. -/
def Head.showColour (h : Head) (now : Nat) : Colour :=
  match h.showCol with
  | some c => c.value now
  | none => Colour.zero

/-- The SHOW BEAM cell evaluated, or 0. -/
def Head.showBeamValue (h : Head) (now : Nat) : Nat :=
  match h.showBeam with
  | some c => c.value now
  | none => 0

/-- The COLOUR output (R27). -/
def Head.colourOutput (h : Head) (now : Nat) : Colour :=
  match h.liveCol, h.colRelease with
  | some c, _ => c.value now
  | none, some t => t.toward (h.showColour now) now
  | none, none => h.showColour now

/-- The BEAM output (R28). -/
def Head.beamOutput (h : Head) (now : Nat) : Nat :=
  match h.liveBeam, h.beamRelease with
  | some c, _ => max (c.value now) (h.showBeamValue now)
  | none, some t => t.toward (h.showBeamValue now) now
  | none, none => h.showBeamValue now

/-- The intensity a LOOK carries but for the dark-first one (R35). -/
def Head.lookIntensity (h : Head) (now : Nat) : Nat := if h.guard.isEmpty then h.beamOutput now else 0

/-- A COLOUR transition that has run its duration is removed at an evaluation (R30). -/
def Head.endColour (h : Head) (now : Nat) : Head :=
  { h with colRelease := h.colRelease.filter fun t => decide (now - t.begun < t.duration) }

/-- A BEAM transition that has run its duration is removed at an evaluation (R30). -/
def Head.endBeam (h : Head) (now : Nat) : Head :=
  { h with beamRelease := h.beamRelease.filter fun t => decide (now - t.begun < t.duration) }

/-! ### Cells (R24) -/

/-- A COLOUR cell set on a layer. -/
def Head.setColour (now : Nat) (layer : Layer) (k : SlotIx) (e : EntryCol) (h : Head) : Head :=
  let cell : ColourCell := ⟨e.target, ⟨h.colourOutput now, now, e.fade⟩, k⟩
  let h := h.endColour now
  match layer with
  | .show => { h with showCol := some cell }
  | .live => { h with liveCol := some cell, colRelease := none }

/-- A BEAM cell set on a layer. -/
def Head.setBeam (now : Nat) (layer : Layer) (k : SlotIx) (e : EntryBeam) (h : Head) : Head :=
  let cell : BeamCell := ⟨e.target, ⟨h.beamOutput now, now, e.fade⟩, k⟩
  let h := h.endBeam now
  match layer with
  | .show => { h with showBeam := some cell }
  | .live => { h with liveBeam := some cell, beamRelease := none }

/-- A POSITION cell set on a layer. -/
def Head.setPosition (layer : Layer) (k : SlotIx) (e : EntryPos) (h : Head) : Head :=
  match layer with
  | .show => { h with showPos := some ⟨e.target, e.moveTime, k⟩ }
  | .live => { h with livePos := some ⟨e.target, e.moveTime, k⟩ }

/-- A change made only where there is something to make it from. -/
def Head.given {α : Type} (o : Option α) (f : α → Head → Head) (h : Head) : Head :=
  match o with
  | some a => f a h
  | none => h

/-- The cells a fired entry carries: COLOUR and BEAM, then POSITION (R24, R33). -/
def Head.setCells (now : Nat) (layer : Layer) (k : SlotIx) (e : Entry) (h : Head) : Head :=
  ((h.given e.colour (Head.setColour now layer k)).given e.beam (Head.setBeam now layer k)).given e.position
    (Head.setPosition layer k)

/-- A POSITION cell just set on a layer wins (R25). -/
def Head.wins (h : Head) : Layer → Bool
  | .live => true
  | .show => h.livePos.isNone

/-! ### Lamp requests (R39, R40, R43) -/

/-- The head's profile has a discharge lamp; only such a head's lamp moves (R38). -/
def Rig.discharge (r : Rig) (h : HeadIx) : Bool :=
  match r.profileOf h with
  | some p => p.lamp == .discharge
  | none => false

/-- Set or clear strike-pending. -/
def Rig.setPending (r : Rig) (h : HeadIx) (b : Bool) : Rig := r.touchHead h fun x => { x with strikePending := b }

/-- A STRIKE request on a head (R39). -/
def Rig.strikeRequest (r : Rig) (h : HeadIx) : Rig :=
  if !r.discharge h then r
  else if !(r.heads.get h).avail.lookable then r.setPending h true
  else match (r.heads.get h).lamp with
  | .off => r.request h (.lamp h .strike)
  | .striking | .lit => r.withdraw h (fun c => c == .lamp h .douse)
  | .cooling => r.setPending h true

/-- A DOUSE request on a head (R40). -/
def Rig.douseRequest (r : Rig) (h : HeadIx) : Rig :=
  if !r.discharge h then r
  else
    let r := r.setPending h false
    if !(r.heads.get h).avail.lookable then r
    else match (r.heads.get h).lamp with
    | .striking | .lit => r.request h (.lamp h .douse)
    | .off => r.withdraw h (fun c => c == .lamp h .strike)
    | .cooling => r

/-- A head entry's lamp request. -/
def Rig.lampRequest (r : Rig) (h : HeadIx) : LampReq → Rig
  | .none => r
  | .strike => r.strikeRequest h
  | .douse => r.douseRequest h

/-- What entry into COOLING does beside the lamp state (R43). -/
def Rig.holdStrike (r : Rig) (h : HeadIx) : Rig :=
  if r.holds h (fun c => c == .lamp h .strike) then
    (r.withdraw h (fun c => c == .lamp h .strike)).setPending h true
  else r

/-- A pending strike is acted on: the flag cleared and a STRIKE requested (R10, R41, R42). -/
def Rig.strikePendingNow (r : Rig) (h : HeadIx) : Rig :=
  if (r.heads.get h).strikePending then (r.setPending h false).request h (.lamp h .strike) else r

end Sys2Proof.Machine
end

