-- ==== Sys2Proof/Machine/Sectors.lean ====
section
/-! DEFINITION. The Sector Table: boxes (R50), path verdicts (R51 to R55), parked evaluations (R56, R57), and the
definition and removal of sectors (R44 to R49). -/

namespace Sys2Proof.Machine

/-! ### Boxes (R50) -/

/-- A point lies inside a box. -/
def Box.inside (b : Box) (p : Point) : Bool :=
  decide (b.panMin ≤ p.pan) && decide (p.pan ≤ b.panMax) && decide (b.tiltMin ≤ p.tilt) && decide (p.tilt ≤ b.tiltMax)

/-- Two boxes overlap. -/
def Box.overlaps (a b : Box) : Bool :=
  decide (a.panMin ≤ b.panMax) && decide (b.panMin ≤ a.panMax) && decide (a.tiltMin ≤ b.tiltMax) &&
    decide (b.tiltMin ≤ a.tiltMax)

/-! ### Verdicts (R51 to R55) -/

/-- The Sector Table's answers (R51). -/
inductive Verdict
  | path
  | direct (darken : Bool)
  | detour (waypoint : Point) (darken : Bool)
  deriving DecidableEq, Repr

/-- The waypoint of a DETOUR sector. -/
def Policy.waypoint : Policy → Option Point
  | .detour w => some w
  | .darken | .refuse => none

/-- The head's candidate sectors in ascending slot order (R51). -/
def Rig.candidates (r : Rig) (h : HeadIx) : List Sector :=
  (r.members.get h).filterMap fun k => (r.sectors.get k).filter Sector.armed

/-- A path verdict from candidate sectors, a binding, a hull box and an effective target (R52 to R55). -/
def verdict (cs : List Sector) (b : Binding) (hull : Box) (target : Point) : Verdict :=
  let direct := hull.cover target.box
  if cs.any (fun x => x.policy.waypoint.isSome && x.box.inside target) ||
      cs.any (fun x => x.policy == .refuse && x.box.overlaps direct) then .path
  else match cs.find? (fun x => x.policy.waypoint.isSome && x.box.overlaps direct) with
  | none => .direct (cs.any fun x => x.policy == .darken && x.box.overlaps direct)
  | some d =>
    let w := b.effective (d.policy.waypoint.getD ⟨0, 0⟩)
    let leg1 := hull.cover w.box
    let leg2 := w.box.cover target.box
    if cs.any (fun x => x.policy != .darken && (x.box.overlaps leg1 || x.box.overlaps leg2)) then .path
    else .detour w (cs.any fun x => x.policy == .darken && (x.box.overlaps leg1 || x.box.overlaps leg2))

/-! ### Parked evaluations (R56) -/

/-- A parked evaluation of a patched head (R56). -/
def Rig.evaluateParked (now : Nat) (r : Rig) (h : HeadIx) : Rig :=
  match (r.heads.get h).accepted with
  | none => r
  | some a =>
    let parked := (r.candidates h).any fun x => x.policy == .darken && x.box.inside a.point
    r.modHead now h fun x => { x with guard := { x.guard with parked := parked } }

/-- Parked evaluations of the patched, settled heads among those a test names, and how many gained or lost PARKED
(R49). -/
def Rig.reevaluate (now : Nat) (r : Rig) (concerned : HeadIx → Bool) : Rig × Nat :=
  let hs := (List.finRange 512).filter fun h =>
    concerned h && (r.heads.get h).avail != .unpatched && (r.heads.get h).settled
  let after := hs.foldl (Rig.evaluateParked now) r
  (after, (hs.filter fun h => (r.heads.get h).guard.parked != (after.heads.get h).guard.parked).length)

/-! ### SECTOR records (R46 to R49) -/

/-- An angle lies within the range of pan. -/
def panOk (a : Int) : Bool := decide (-27000 ≤ a) && decide (a ≤ 27000)
/-- An angle lies within the range of tilt. -/
def tiltOk (a : Int) : Bool := decide (-13500 ≤ a) && decide (a ≤ 13500)
/-- A head range has its first head not above its last, and its last within the table. -/
def rangeOk (x : Nat × Nat) : Bool := decide (x.1 ≤ x.2) && decide (x.2 ≤ 511)
/-- A list of head ranges names a head. -/
def named (ranges : List (Nat × Nat)) (h : HeadIx) : Bool :=
  ranges.any fun x => decide (x.1 ≤ h.val) && decide (h.val ≤ x.2)

/-- The record's box. -/
def SectorRec.box (x : SectorRec) : Box := ⟨x.panMin, x.panMax, x.tiltMin, x.tiltMax⟩

/-- The record's waypoint fields. -/
def SectorRec.waypoint (x : SectorRec) : Point := ⟨x.wayPan, x.wayTilt⟩

/-- The test for form (R46), but for the slot number. -/
def SectorRec.formOk (x : SectorRec) : Bool :=
  panOk x.panMin && panOk x.panMax && decide (x.panMin ≤ x.panMax) &&
  tiltOk x.tiltMin && tiltOk x.tiltMax && decide (x.tiltMin ≤ x.tiltMax) &&
  decide (x.policy ≤ 2) &&
  (x.policy != 1 || (panOk x.wayPan && tiltOk x.wayTilt && !x.box.inside x.waypoint)) &&
  decide (1 ≤ x.count) && decide (x.count ≤ 8) && (x.ranges.take x.count).all rangeOk

/-- What the slot keeps of a record (R44, R46). -/
def SectorRec.kept (x : SectorRec) : Sector where
  armed := x.armed
  box := x.box
  policy := if x.policy = 0 then .darken else if x.policy = 1 then .detour x.waypoint else .refuse
  ranges := x.ranges.take x.count

/-- A slot inserted into a membership list in slot-number order, once (R45, R47). -/
def joinList (l : List SectorIx) (k : SectorIx) : List SectorIx :=
  if l.contains k then l else l.takeWhile (fun j => decide (j < k)) ++ k :: l.dropWhile (fun j => decide (j < k))

/-- The membership list with a slot in it or not. -/
def placeSector (l : List SectorIx) (k : SectorIx) (member : Bool) : List SectorIx :=
  if member then joinList l k else l.filter fun j => j != k

/-- The head is in the slot's member set. -/
def Rig.member (r : Rig) (k : SectorIx) (h : HeadIx) : Bool :=
  match r.sectors.get k with
  | some x => named x.ranges h
  | none => false

/-- The head indices whose list a slot would make longer than 8 (R47). -/
def Rig.crowded (r : Rig) (k : SectorIx) (ranges : List (Nat × Nat)) : List HeadIx :=
  (List.finRange 512).filter fun h =>
    named ranges h && !(r.members.get h).contains k && decide (Config.sectorsPerHead ≤ (r.members.get h).length)

/-- The slot takes a sector or is emptied, and the membership lists follow (R47, R48). -/
def Rig.placeSlot (r : Rig) (k : SectorIx) (x : Option Sector) : Rig :=
  { r with
    sectors := upd r.sectors k x
    members := Vector.ofFn fun h =>
      placeSector (r.members.get h) k (match x with | some y => named y.ranges h | none => false) }

/-- A SECTOR record without the remove flag (R46, R47, R49). -/
def Rig.defineSector (now : Nat) (r : Rig) (x : SectorRec) : Rig × Answer :=
  if hs : x.slot < 64 then
    if !x.formOk then (r, .refused .malformed)
    else
      let k : SectorIx := ⟨x.slot, hs⟩
      let y := x.kept
      match r.crowded k y.ranges with
      | h :: hs => (r, ⟨.refused, .full, resultArea (le16 h.val ++ le16 (hs.length + 1))⟩)
      | [] =>
        let p := (r.placeSlot k (some y)).reevaluate now fun h => r.member k h || named y.ranges h
        (p.1, .done (le16 ((List.finRange 512).filter (named y.ranges)).length ++ le16 p.2))
  else (r, .refused .malformed)

/-- A SECTOR record with the remove flag (R48, R49). -/
def Rig.removeSector (now : Nat) (r : Rig) (slot : Nat) : Rig × Answer :=
  if hs : slot < 64 then
    let k : SectorIx := ⟨slot, hs⟩
    if (r.sectors.get k).isNone then (r, .done [])
    else
      let p := (r.placeSlot k none).reevaluate now fun h => r.member k h
      (p.1, .done (le16 0 ++ le16 p.2))
  else (r, .refused .malformed)

end Sys2Proof.Machine
end

