-- ==== Sys2Proof/Machine/Planner.lean ====
section
/-! DEFINITION. The Motion Planner: planning (R61 to R65), new moves and overtakes (R66, R79), replies to an AIM (R69 to
R74), settlement and second legs (R68, R76, R77), and TOGETHER gatherings (R82 to R86). -/

namespace Sys2Proof.Machine

/-! ### Planning (R61 to R64) -/

/-- What is handed to the planner (R61); a move of a TOGETHER cue is staged with its slot as latch number. -/
structure Handover where
  target : Point
  moveTime : Nat
  cue : Option SlotIx
  staged : Bool
  deriving DecidableEq, Repr

/-- How a planning ends: refused, or the legs and the darken flag of a new move. -/
inductive Plan
  | refused (reason : Refused)
  | legs (leg1 : Leg) (leg2 : Option Leg) (darken : Bool)
  deriving DecidableEq, Repr

/-- The range check on head-native angles (R62). -/
def Profile.reaches (p : Profile) (native : Point) : Bool :=
  decide (p.panMin ≤ native.pan) && decide (native.pan ≤ p.panMax) && decide (p.tiltMin ≤ native.tilt) &&
    decide (native.tilt ≤ p.tiltMax)

/-- An axis's minimum time, in ms: the larger distance times 10, divided by the speed, rounded up (R64). -/
def axisMinimum (lo hi at_ : Int) (speed : Nat) : Nat :=
  (max (at_ - lo).natAbs (at_ - hi).natAbs * 10 + (speed - 1)) / speed

/-- A leg's minimum time from a box to a point (R64). -/
def Profile.legMinimum (p : Profile) (b : Box) (t : Point) : Nat :=
  max (axisMinimum b.panMin b.panMax t.pan p.panSpeed) (axisMinimum b.tiltMin b.tiltMax t.tilt p.tiltSpeed)

/-- The planning hull (R61). -/
def Head.planningHull (h : Head) (target : Point) : Box :=
  let hull := h.hull.getD target.box
  match h.move with
  | some m => if m.state = .onWire ∨ m.state = .staged then hull.cover m.leg.target.box else hull
  | none => hull

/-- A planning: range check, path verdict, move-time stretch (R62 to R64). -/
def plan (p : Profile) (b : Binding) (cs : List Sector) (hull : Box) (target : Point) (request : Nat) : Plan :=
  if !p.reaches (b.turn target) then .refused .range
  else match verdict cs b hull target with
  | .path => .refused .path
  | .direct d => .legs ⟨target, max request (p.legMinimum hull target), none⟩ none d
  | .detour w d =>
    if !p.reaches (b.turn w) then .refused .path
    else
      let total := max request (max (2 * p.legMinimum hull w - 1) (2 * p.legMinimum w.box target))
      .legs ⟨w, (total + 1) / 2, none⟩ (some ⟨target, total / 2, none⟩) d

/-- The plan for a head (R61); a head without a profile, which no run holds, is refused (log 28). -/
def Rig.planFor (r : Rig) (h : HeadIx) (o : Handover) : Plan :=
  match (r.heads.get h).binding, r.profileOf h with
  | some b, some p =>
    let target := b.effective o.target
    plan p b (r.candidates h) ((r.heads.get h).planningHull target) target o.moveTime
  | _, _ => .refused .range

/-! ### New moves (R66, R79) -/

/-- The overtaking of the move a head holds (R79). -/
def Rig.overtake (now : Nat) (r : Rig) (h : HeadIx) : Rig :=
  match (r.heads.get h).move with
  | none => r
  | some m =>
    let r :=
      if m.state = .onWire ∨ m.state = .staged then
        r.modHead now h fun x => { x.widen m.leg.target with settled := false }
      else r
    r.endMove now h .overtaken

/-- The record of a new move (R66). -/
def Handover.record (o : Handover) (leg1 : Leg) (leg2 : Option Leg) (darken : Bool) : Move where
  state := .planned
  leg1 := leg1
  leg2 := leg2
  current := .first
  darken := darken
  darkSent := false
  staged := o.staged
  latch := if o.staged then o.cue else none
  cue := o.cue
  travel := none
  deadline := none
  attempts := 0

/-- The tag of the cue a slot holds. -/
def Rig.tagOf (r : Rig) (k : SlotIx) : Option Tag := (r.slots.get k).map Running.tag

/-- A new move (R66). -/
def Rig.startMove (now : Nat) (r : Rig) (h : HeadIx) (o : Handover) (m : Move) : Rig :=
  let r := r.overtake now h
  let r := r.modHead now h fun x => { x with
    move := some m
    guard := { x.guard with transit := x.guard.transit || m.darken }
    lastCueTag := match o.cue with
      | some k => (r.tagOf k).or x.lastCueTag
      | none => x.lastCueTag }
  let r := match o.cue with
    | some k => r.modSlot k fun y => { y with outstanding := y.outstanding + 1 }
    | none => r
  r.request h (.aim h)

/-- A POSITION handed to the planner for an ACTIVE head; whether a move was created (R61, R65, R66). -/
def Rig.handOver (now : Nat) (r : Rig) (h : HeadIx) (o : Handover) : Rig × Bool :=
  match r.planFor h o with
  | .refused reason => (r.modHead now h fun x => { x with lastRefused := reason }, false)
  | .legs leg1 leg2 darken => (r.startMove now h o (o.record leg1 leg2 darken), true)

/-! ### Availability FAULT (R16) -/

/-- Entry of an ACTIVE head into FAULT (R16). -/
def Rig.enterFault (now : Nat) (r : Rig) (h : HeadIx) (c : FaultCause) : Rig :=
  let r := r.endMove now h .fault
  let r := r.withdraw h (fun d => d == .aim h)
  r.modHead now h fun x => { x with
    avail := .fault
    faultCause := c
    guard := { x.guard with fault := true } }

/-! ### Replies to an AIM (R69 to R74) -/

/-- The AIM an exchange sent is that of the head's current move, ON_WIRE (R69). -/
def Head.onWireWith (h : Head) (a : AimSent) : Bool :=
  match h.move with
  | some m => m.state == .onWire && m.leg.seq == some a.seq
  | none => false

/-- The deadline of a journey begun now (R70, R86). -/
def deadlineOf (now travel : Nat) : Nat := now + 2 * travel + Config.deadlineSlackMs

/-- The head has taken a target and is moving to it (R70, R74, R86). -/
def Head.headingFor (h : Head) (target : Point) (seq : Option Seq) : Head :=
  { h.widen target with accepted := some ⟨target, seq⟩, settled := false }

/-- An unstaged ACCEPT that answers the current move (R70). -/
def Rig.travelling (now : Nat) (r : Rig) (h : HeadIx) (a : AimSent) (travel : Nat) : Rig :=
  r.modHead now h fun x => { x.headingFor a.target (some a.seq) with
    move := x.move.map fun m => { m with
      state := .travelling
      travel := some travel
      deadline := some (deadlineOf now travel) } }

/-- A slot's gathering is LATCHED. -/
def Rig.latched (r : Rig) (k : SlotIx) : Bool :=
  match r.slots.get k with
  | some y => y.gathering.state == .latched
  | none => false

/-- A staged ACCEPT that answers the current move (R71, R83, R85). -/
def Rig.stagedNow (now : Nat) (r : Rig) (h : HeadIx) (line : LineIx) (travel : Nat) : Rig :=
  let r := r.touchHead h fun x => { x with
    move := x.move.map fun m => { m with state := .staged, travel := some travel } }
  match (r.heads.get h).move.bind Move.latch with
  | none => r
  | some k =>
    let r := if r.latched k then r.requestLatch now line k else r.gathered now k (some line)
    r.retireIfDone k

/-- TRANSIT removed (R68). -/
def Rig.clearTransit (now : Nat) (r : Rig) (h : HeadIx) : Rig :=
  r.modHead now h fun x => { x with guard := { x.guard with transit := false } }

/-- The last refusal reason a REFUSE of an AIM sets (R72). -/
def Reason.refused : Reason → Refused
  | .range => .headRange
  | .motor => .headMotor
  | .lamp => .lamp

/-- A REFUSE that answers the current move (R72, R68, R16). -/
def Rig.headRefused (now : Nat) (r : Rig) (h : HeadIx) (reason : Reason) : Rig :=
  let r := r.modHead now h fun x => { x with lastRefused := reason.refused }
  let r := r.endMove now h .headRefused
  let r := if (r.heads.get h).settled && (r.heads.get h).move.isNone then r.clearTransit now h else r
  if reason = .motor then r.enterFault now h .motor else r

/-- Three attempts of the current AIM without an answer (R73). -/
def Rig.aimFailed (now : Nat) (r : Rig) (h : HeadIx) (a : AimSent) : Rig :=
  if (r.heads.get h).onWireWith a then
    (r.modHead now h fun x => { x.widen a.target with settled := false }).endMove now h .failed
  else r

/-- An ACCEPT that does not answer the current move, delivered to an ACTIVE head (R74). -/
def Rig.staleAccept (now : Nat) (r : Rig) (h : HeadIx) (a : AimSent) : Rig :=
  r.modHead now h fun x =>
    if a.staged then { x.widen a.target with settled := false } else x.headingFor a.target (some a.seq)

/-- An ACCEPT delivered to an ACTIVE head in answer to its AIM, the sequence echoed (R69, R70, R71, R74). -/
def Rig.aimAccepted (now : Nat) (r : Rig) (h : HeadIx) (line : LineIx) (a : AimSent) (travel : Nat) : Rig :=
  if (r.heads.get h).onWireWith a then
    if a.staged then r.stagedNow now h line travel else r.travelling now h a travel
  else r.staleAccept now h a

/-- A REFUSE delivered to an ACTIVE head in answer to its AIM, the sequence echoed (R69, R72, R74). -/
def Rig.aimRefused (now : Nat) (r : Rig) (h : HeadIx) (a : AimSent) (reason : Reason) : Rig :=
  if (r.heads.get h).onWireWith a then r.headRefused now h reason else r

/-! ### Settlement (R76, R77) -/

/-- The second leg of a detour is begun (R77). -/
def Move.secondLeg (m : Move) : Move :=
  { m with current := .second, state := .planned, staged := false, travel := none, deadline := none, attempts := 0 }

/-- The move has a leg after its current one. -/
def Move.hasNext (m : Move) : Bool := m.current == .first && m.leg2.isSome

/-- What a settlement does to the move that reached its leg (R76 step 2). -/
def Rig.legReached (now : Nat) (r : Rig) (h : HeadIx) (seq : Option Seq) : Rig :=
  match (r.heads.get h).move with
  | none => r
  | some m =>
    if m.state = .travelling ∧ m.leg.seq = seq then
      if m.hasNext then (r.touchHead h fun x => { x with move := some m.secondLeg }).request h (.aim h)
      else r.endMove now h .reached
    else r

/-- The head holds a darkened move. -/
def Head.darkened (h : Head) : Bool :=
  match h.move with
  | some m => m.darken
  | none => false

/-- A settlement at `accepted_target` (R76, R68, R56). -/
def Rig.settlement (now : Nat) (r : Rig) (h : HeadIx) (a : Accepted) : Rig :=
  let r := r.modHead now h fun x => { x with settled := true, hull := some a.point.box }
  let r := r.legReached now h a.seq
  let r := if (r.heads.get h).darkened then r else r.clearTransit now h
  r.evaluateParked now h

/-! ### Gatherings (R82, R86) -/

/-- The gathering of a TOGETHER cue whose entries have all been applied (R82). -/
def Rig.setGathering (now : Nat) (r : Rig) (k : SlotIx) : Rig :=
  match r.slots.get k with
  | none => r
  | some x =>
    let r := r.modSlot k fun x => { x with
      gathering := ⟨.gathering, x.outstanding, some (x.fireEngine + x.latchWait), Vector.replicate 16 false⟩ }
    if x.outstanding = 0 then r.latchGathering now k (Vector.replicate 16 false) false else r

/-- A STAGED move of a latch number sets off at the LATCH's completion (R86). -/
def Head.setOff (now : Nat) (n : SlotIx) (h : Head) : Head :=
  match h.move with
  | some m =>
    if m.state = .staged ∧ m.latch = some n then
      { h.headingFor m.leg.target m.leg.seq with
        move := some { m with state := .travelling, deadline := some (deadlineOf now (m.travel.getD 0)) } }
    else h
  | none => h

/-- The STAGED moves of a latch number on a line set off (R86). -/
def Rig.setOff (now : Nat) (r : Rig) (l : LineIx) (n : SlotIx) : Rig :=
  (r.lines.get l).bound.foldl (fun r h => r.modHead now h (Head.setOff now n)) r

end Sys2Proof.Machine
end

