-- ==== Sys2Proof/Machine/Heads.lean ====
section
/-! DEFINITION. The Head Table: entries into availability states (R9, R14, R18, R20, R21), misses and good replies (R13),
identification (R10, R11), the use of replies (R12, R15, R16, R18, R41), lamp timers (R42), fired entries (R33, R34),
blackout (R36, R37), PATCH, UNPATCH, CLEAR_HEAD, PROFILE and RELEASE records (R3, R4, R7, R8, R17, R19, R31, R32). -/

namespace Sys2Proof.Machine

/-! ### Entries into availability states -/

/-- Entry into IDENTIFYING (R9). -/
def Rig.enterIdentifying (now : Nat) (r : Rig) (h : HeadIx) : Rig :=
  (r.modHead now h fun x => { x with avail := .identifying, identTimer := none }).request h (.service h .ident)

/-- Entry into LOST (R14, R18). -/
def Rig.enterLost (now : Nat) (r : Rig) (h : HeadIx) : Rig :=
  let fromFault := (r.heads.get h).avail == .fault
  let r := r.endMove now h .lost
  let r := r.withdraw h fun c => c == .aim h || c == .lamp h .strike || c == .lamp h .douse ||
    (fromFault && c == .service h .clear)
  r.modHead now h fun x => { x with
    avail := .lost
    guard := { x.guard with fault := false }
    identTimer := some (now + Config.identMs) }

/-- Entry into OFFLINE with the head's line (R20). -/
def Rig.enterOffline (now : Nat) (r : Rig) (h : HeadIx) : Rig :=
  let r := r.endMove now h .lineDown
  r.modHead now h fun x => { x with
    avail := .offline
    guard := { x.guard with fault := false }
    identTimer := none
    missRun := 0 }

/-- A CLEAR is accepted (R18). -/
def Rig.leaveFault (now : Nat) (r : Rig) (h : HeadIx) : Rig :=
  (r.modHead now h fun x => { x with guard := { x.guard with fault := false } }).enterIdentifying now h

/-- A line goes out of service into a state: its heads in ascending address order (R20). -/
def Rig.leaveService (now : Nat) (r : Rig) (l : LineIx) (s : LineState) : Rig :=
  let r := r.modLine l fun x => { x with state := s, timer := none }
  (r.lines.get l).bound.foldl (Rig.enterOffline now) r

/-- A line comes back into service: its heads in ascending address order (R21, R90, R109). -/
def Rig.enterService (now : Nat) (r : Rig) (l : LineIx) : Rig :=
  let r := r.modLine l fun x => { x with
    state := .running
    timer := none
    lastPoll := now
    framesSincePoll := 0
    commandsSinceLook := 0
    pollPos := 31 }
  (r.lines.get l).bound.foldl (Rig.enterIdentifying now) r

/-! ### Misses and good replies (R13) -/

/-- The identification timer is in use: IDENTIFYING, MISMATCH or LOST (R9). -/
def Avail.awaitsIdent : Avail → Bool
  | .identifying | .mismatch | .lost => true
  | .unpatched | .active | .fault | .offline => false

/-- Six misses lose a head in these states (R13). -/
def Avail.losable : Avail → Bool
  | .identifying | .mismatch | .active | .fault => true
  | .unpatched | .lost | .offline => false

/-- A miss counted (R13); in OFFLINE it counts toward the total only. -/
def Head.countMiss (h : Head) : Head :=
  { h with
    missTotal := h.missTotal.bump
    missRun := if h.avail = .offline then h.missRun else min Config.missesToLost (h.missRun + 1) }

/-- A miss delivered to a patched head (R13). -/
def Rig.miss (now : Nat) (r : Rig) (h : HeadIx) : Rig :=
  let r := r.modHead now h Head.countMiss
  let x := r.heads.get h
  if x.avail.losable && x.missRun == Config.missesToLost then r.enterLost now h else r

/-- The identification timer set, in the states that use it (R9). -/
def Rig.setIdent (now : Nat) (r : Rig) (h : HeadIx) : Rig :=
  if (r.heads.get h).avail.awaitsIdent then
    r.touchHead h fun x => { x with identTimer := some (now + Config.identMs) }
  else r

/-! ### Identification (R10, R11) -/

/-- The lamp condition a DESCRIPTOR gives a DISCHARGE head (R10). -/
def Descriptor.lamp (now : Nat) (d : Descriptor) : Lamp × Option LampTimer :=
  if d.lit then (.lit, none)
  else if 0 < d.lockout then (.cooling, some ⟨.cooling, now + d.lockout * 1000⟩)
  else (.off, none)

/-- What an identified DISCHARGE head's lamp state does beside itself (R10, R43). -/
def Rig.lampFound (r : Rig) (h : HeadIx) : Rig :=
  match (r.heads.get h).lamp with
  | .off => r.strikePendingNow h
  | .lit => r.setPending h false
  | .cooling => r.holdStrike h
  | .striking => r

/-- The catch-up of identification (R10). -/
def Rig.catchUp (now : Nat) (r : Rig) (h : HeadIx) (b : Binding) (at_ : Point) (atRest : Bool) : Rig :=
  match (r.heads.get h).winning with
  | some w =>
    if !atRest || decide (b.effective w.target ≠ at_) then (r.handOver now h ⟨w.target, w.moveTime, none, false⟩).1
    else r
  | none => if !atRest then (r.handOver now h ⟨at_, 0, none, false⟩).1 else r

/-- A head identified by a matching DESCRIPTOR (R10). -/
def Rig.identified (now : Nat) (r : Rig) (h : HeadIx) (b : Binding) (p : Profile) (d : Descriptor) : Rig :=
  let at_ := b.turn d.native
  let r := r.modHead now h fun x => { x with
    avail := .active
    identTimer := none
    accepted := some ⟨at_, none⟩
    settled := d.atRest
    hull := some at_.box
    guard := { x.guard with transit := x.guard.transit && !d.atRest }
    lamp := if p.lamp = .discharge then (d.lamp now).1 else x.lamp
    lampTimer := if p.lamp = .discharge then (d.lamp now).2 else x.lampTimer }
  let r := if d.atRest then r.evaluateParked now h else r
  let r := if p.lamp = .discharge then r.lampFound h else r
  r.catchUp now h b at_ d.atRest

/-- A DESCRIPTOR delivered in IDENTIFYING or MISMATCH (R10, R11). -/
def Rig.describe (now : Nat) (r : Rig) (h : HeadIx) (d : Descriptor) : Rig :=
  match (r.heads.get h).binding, r.profileOf h with
  | some b, some p =>
    if d.model = p.model then r.identified now h b p d
    else r.modHead now h fun x => { x with avail := .mismatch, identTimer := some (now + Config.identMs) }
  | _, _ => r

/-! ### Answers to STRIKE and DOUSE (R41) -/

/-- An ACCEPT of a STRIKE (R41). -/
def Rig.strikeAccepted (now : Nat) (r : Rig) (h : HeadIx) (p : Profile) : Rig :=
  r.modHead now h fun x => { x with
    lamp := .striking
    lampTimer := some ⟨.strike, now + p.strike * 1000⟩ }

/-- An ACCEPT of a DOUSE (R41, R43). -/
def Rig.douseAccepted (now : Nat) (r : Rig) (h : HeadIx) (p : Profile) : Rig :=
  if 0 < p.cooling then
    (r.modHead now h fun x => { x with
      lamp := .cooling
      lampTimer := some ⟨.cooling, now + p.cooling * 1000⟩ }).holdStrike h
  else (r.modHead now h fun x => { x with lamp := .off, lampTimer := none }).strikePendingNow h

/-- The lamp command of an exchange. -/
def ExKind.lampCmd : ExKind → Option LampCmd
  | .strike => some .strike
  | .douse => some .douse
  | .aim | .poll | .ident | .clear => none

/-- An ACCEPT of a lamp command by an ACTIVE or FAULT head (R41). -/
def Rig.lampAccepted (now : Nat) (r : Rig) (h : HeadIx) (c : LampCmd) : Rig :=
  match r.profileOf h with
  | some p =>
    if p.lamp = .discharge then
      match c with
      | .strike => r.strikeAccepted now h p
      | .douse => r.douseAccepted now h p
    else r
  | none => r

/-- A REFUSE of a lamp command by an ACTIVE or FAULT head (R41, R16). -/
def Rig.lampRefused (now : Nat) (r : Rig) (h : HeadIx) (c : LampCmd) : Rig :=
  let r := r.modHead now h fun x => { x with lastRefused := .lamp }
  if c = .strike ∧ (r.heads.get h).avail = .active then r.enterFault now h .lamp else r

/-! ### Replies delivered to a head (R12, R15, R16, R18, R41, R76) -/

/-- An ACCEPT delivered to an ACTIVE or FAULT head in answer to an exchange. -/
def Rig.useAccept (now : Nat) (r : Rig) (l : LineIx) (e : Exchange) (echo : Seq) (travel : Nat) : Rig :=
  let a := (r.heads.get e.head).avail
  if echo ≠ e.seq then r
  else match e.kind, e.aim with
  | .aim, some sent => if a = .active then r.aimAccepted now e.head l sent travel else r
  | .clear, _ => if a = .fault then r.leaveFault now e.head else r
  | .strike, _ => r.lampAccepted now e.head .strike
  | .douse, _ => r.lampAccepted now e.head .douse
  | .aim, none => r
  | .poll, _ => r
  | .ident, _ => r

/-- A REFUSE delivered to an ACTIVE or FAULT head in answer to an exchange. -/
def Rig.useRefuse (now : Nat) (r : Rig) (e : Exchange) (echo : Seq) (reason : Reason) : Rig :=
  if echo ≠ e.seq then r
  else match e.kind, e.aim with
  | .aim, some sent => if (r.heads.get e.head).avail = .active then r.aimRefused now e.head sent reason else r
  | .strike, _ => r.lampRefused now e.head .strike
  | .douse, _ => r.lampRefused now e.head .douse
  | .aim, none => r
  | .clear, _ => r
  | .poll, _ => r
  | .ident, _ => r

/-- A STATUS delivered to an ACTIVE or FAULT head (R16, R76, R123); in answer to an AIM it settles nothing (R69). -/
def Rig.useStatus (now : Nat) (r : Rig) (e : Exchange) (t : Status) : Rig :=
  let x := r.heads.get e.head
  if t.fault ≠ .none then
    if x.avail = .active then r.enterFault now e.head t.fault
    else r.modHead now e.head fun x => { x with faultCause := t.fault }
  else if x.avail = .active ∧ e.kind ≠ .aim ∧ t.present ∧ t.reached then
    match x.accepted with
    | some a => if a.seq = some t.seq then r.settlement now e.head a else r
    | none => r
  else r

/-- A DESCRIPTOR. -/
def ReplyBody.isDescriptor : ReplyBody → Bool
  | .descriptor _ => true
  | .accept _ => false
  | .refuse _ => false
  | .status _ => false

/-- A good reply used by the state its head is in (R12, R15). -/
def Rig.useReply (now : Nat) (r : Rig) (l : LineIx) (e : Exchange) (p : Reply) : Rig :=
  match (r.heads.get e.head).avail, p.body with
  | .lost, _ => r.enterIdentifying now e.head
  | .identifying, .descriptor d => r.describe now e.head d
  | .mismatch, .descriptor d => r.describe now e.head d
  | .active, .accept travel => r.useAccept now l e p.seq travel
  | .fault, .accept travel => r.useAccept now l e p.seq travel
  | .active, .refuse reason => r.useRefuse now e p.seq reason
  | .fault, .refuse reason => r.useRefuse now e p.seq reason
  | .active, .status t => r.useStatus now e t
  | .fault, .status t => r.useStatus now e t
  | _, _ => r

/-- A good reply delivered to the head of an exchange (R9, R12, R13): an IDENT that ends without a DESCRIPTOR sets the
identification timer first, then the miss run becomes 0, then the reply is used. -/
def Rig.deliver (now : Nat) (r : Rig) (l : LineIx) (e : Exchange) (p : Reply) : Rig :=
  let r := if e.kind = .ident ∧ !p.body.isDescriptor then r.setIdent now e.head else r
  let r := r.touchHead e.head fun x => { x with missRun := 0 }
  r.useReply now l e p

/-! ### Timers of a head (R9, R42, R78) -/

/-- A timer's expiry has been reached. -/
def expired (now : Nat) (t : Option Nat) : Bool :=
  match t with
  | some x => decide (x ≤ now)
  | none => false

/-- Expiry of the identification timer (R9). -/
def Rig.identExpiry (now : Nat) (r : Rig) (h : HeadIx) : Rig :=
  let x := r.heads.get h
  if x.avail.awaitsIdent && expired now x.identTimer then
    (r.touchHead h fun x => { x with identTimer := none }).request h (.service h .ident)
  else r

/-- The head holds a lamp timer of a kind whose expiry has been reached. -/
def Head.lampExpired (h : Head) (now : Nat) (k : LampTimerKind) : Bool :=
  match h.lampTimer with
  | some t => t.kind == k && decide (t.expiry ≤ now)
  | none => false

/-- Expiry of the strike timer (R42). -/
def Rig.strikeExpiry (now : Nat) (r : Rig) (h : HeadIx) : Rig :=
  if (r.heads.get h).lampExpired now .strike then
    r.modHead now h fun x => { x with lamp := .lit, lampTimer := none }
  else r

/-- Expiry of the cooling timer (R42). -/
def Rig.coolingExpiry (now : Nat) (r : Rig) (h : HeadIx) : Rig :=
  if (r.heads.get h).lampExpired now .cooling then
    let r := r.modHead now h fun x => { x with lamp := .off, lampTimer := none }
    if (r.heads.get h).avail.lookable then r.strikePendingNow h else r
  else r

/-- Expiry of a TRAVELLING move's deadline (R78, R16). -/
def Rig.deadlineExpiry (now : Nat) (r : Rig) (h : HeadIx) : Rig :=
  match (r.heads.get h).move with
  | some m =>
    if m.state = .travelling ∧ expired now m.deadline then (r.endMove now h .stalled).enterFault now h .stall else r
  | none => r

/-- Expiry of the latch deadline of a slot's gathering (R84). -/
def Rig.latchExpiry (now : Nat) (r : Rig) (k : SlotIx) : Rig :=
  match r.slots.get k with
  | some x =>
    if x.gathering.state = .gathering ∧ expired now x.gathering.deadline then
      (r.latchGathering now k x.gathering.lines true).retireIfDone k
    else r
  | none => r

/-! ### Fired entries (R33, R34, R145) -/

/-- The slot counts an entry outcome given at its application (R145). -/
def Rig.count (r : Rig) (k : SlotIx) (f : Counts → Counts) : Rig :=
  r.modSlot k fun x => { x with counts := f x.counts }

/-- One APPLIED. -/
def Counts.addApplied (c : Counts) : Counts := { c with applied := c.applied + 1 }
/-- One DEFERRED. -/
def Counts.addDeferred (c : Counts) : Counts := { c with deferred := c.deferred + 1 }
/-- One REFUSED. -/
def Counts.addRefused (c : Counts) : Counts := { c with refused := c.refused + 1 }

/-- A fired entry applied to the head it names and accounted for (R33, R34, R145). -/
def Rig.applyEntry (now : Nat) (layer : Layer) (k : SlotIx) (together : Bool) (r : Rig) (e : Entry) : Rig :=
  let h := e.head
  if (r.heads.get h).avail = .unpatched then r.count k Counts.addRefused
  else
    let r := r.touchHead h (Head.setCells now layer k e)
    let r := if e.colour.isSome || e.beam.isSome then r.lookChange now h else r
    let r := r.lampRequest h e.lamp
    if (r.heads.get h).avail ≠ .active then r.count k Counts.addDeferred
    else match e.position with
    | none => r.count k Counts.addApplied
    | some p =>
      if (r.heads.get h).wins layer then
        let q := r.handOver now h ⟨p.target, p.moveTime, some k, together⟩
        if q.2 then q.1 else q.1.count k Counts.addRefused
      else r.count k Counts.addDeferred

/-! ### Blackout (R36, R37) -/

/-- BLACKOUT into the guard-reason set of every patched head, or out of that of every head (R36, R37). -/
def Rig.setBlackout (now : Nat) (r : Rig) (on : Bool) : Rig :=
  (List.finRange 512).foldl (fun r h =>
    if on ∧ (r.heads.get h).avail = .unpatched then r
    else r.modHead now h fun x => { x with guard := { x.guard with blackout := on } }) r

/-! ### PROFILE records (R3, R4) -/

/-- A head that is not UNPATCHED names the slot. -/
def Rig.profileInUse (r : Rig) (k : ProfileIx) : Bool :=
  (List.finRange 512).any fun h =>
    (r.heads.get h).avail != .unpatched && (match (r.heads.get h).binding with
      | some b => b.profile == k
      | none => false)

/-- The fields of a PROFILE record lie in their ranges, but for the slot number (R3). -/
def ProfileRec.formOk (x : ProfileRec) : Bool :=
  let cs := x.components.take x.count
  panOk x.panMin && panOk x.panMax && decide (x.panMin < x.panMax) &&
  tiltOk x.tiltMin && tiltOk x.tiltMax && decide (x.tiltMin < x.tiltMax) &&
  decide (1 ≤ x.panSpeed) && decide (x.panSpeed ≤ 720) && decide (1 ≤ x.tiltSpeed) && decide (x.tiltSpeed ≤ 720) &&
  decide (x.lampKind ≤ 1) &&
  (x.lampKind == 0 || (decide (1 ≤ x.strike) && decide (x.strike ≤ 60) && decide (x.cooling ≤ 900))) &&
  decide (1 ≤ x.count) && decide (x.count ≤ 6) &&
  cs.all (fun c => decide (c.1 < x.count)) && decide (cs.map Prod.fst).Nodup &&
  cs.all (fun c => (c.2.1 == 8 || c.2.1 == 16) && decide (c.2.2 ≤ 16))

/-- What a slot keeps of a PROFILE record (R3). -/
def ProfileRec.kept (x : ProfileRec) : Profile where
  model := x.model
  panMin := x.panMin
  panMax := x.panMax
  tiltMin := x.tiltMin
  tiltMax := x.tiltMax
  panSpeed := x.panSpeed
  tiltSpeed := x.tiltSpeed
  lamp := if x.lampKind = 0 then .none else .discharge
  strike := x.strike
  cooling := x.cooling
  components := (x.components.take x.count).map fun c => ⟨c.1, c.2.1, c.2.2⟩

/-- A PROFILE record without the remove flag (R3). -/
def Rig.defineProfile (r : Rig) (x : ProfileRec) : Rig × Answer :=
  if hs : x.slot < 32 then
    if !x.formOk then (r, .refused .malformed)
    else if r.profileInUse ⟨x.slot, hs⟩ then (r, .refused .inUse)
    else ({ r with profiles := upd r.profiles ⟨x.slot, hs⟩ (some x.kept) }, .done [])
  else (r, .refused .malformed)

/-- A PROFILE record with the remove flag (R4). -/
def Rig.removeProfile (r : Rig) (slot : Nat) : Rig × Answer :=
  if hs : slot < 32 then
    if r.profileInUse ⟨slot, hs⟩ then (r, .refused .inUse)
    else ({ r with profiles := upd r.profiles ⟨slot, hs⟩ none }, .done [])
  else (r, .refused .malformed)

/-! ### PATCH, UNPATCH and CLEAR_HEAD records (R7, R8, R17, R19) -/

/-- A mount sign byte (11.1). -/
def signOf (i : Int) : Option Sign :=
  if i = 1 then some .plus else if i = -1 then some .minus else if i = 0 then some .held else none

/-- A number as a head index. -/
def headOf (n : Nat) : Option HeadIx := if h : n < 512 then some ⟨n, h⟩ else none
/-- A number as a line. -/
def lineOf (n : Nat) : Option LineIx := if h : n < 16 then some ⟨n, h⟩ else none
/-- A number, 1 to 32, as a head address. -/
def addressOf (n : Nat) : Option AddrIx := if h : 1 ≤ n ∧ n ≤ 32 then some ⟨n - 1, by omega⟩ else none
/-- A number as a profile slot. -/
def profileIxOf (n : Nat) : Option ProfileIx := if h : n < 32 then some ⟨n, h⟩ else none

/-- The binding a PATCH record names: none when a field is out of range (R7). -/
def PatchRec.binding (x : PatchRec) : Option (HeadIx × Binding) := do
  let h ← headOf x.head
  let l ← lineOf x.line
  let a ← addressOf x.address
  let p ← profileIxOf x.profile
  let ps ← signOf x.panSign
  let ts ← signOf x.tiltSign
  pure (h, ⟨l, a, p, ps, ts⟩)

/-- A context as an accepted PATCH starts it, before its state is decided (R8). -/
def Head.patched (b : Binding) (p : Profile) (blackout : Bool) : Head :=
  { Head.unpatched with
    avail := .offline
    binding := some b
    guard := { Guard.none with blackout := blackout }
    lamp := if p.lamp = .none then .lit else .off }

/-- An accepted PATCH (R8). -/
def Rig.bind (now : Nat) (r : Rig) (h : HeadIx) (b : Binding) (p : Profile) (blackout : Bool) : Rig :=
  let r := r.putHead now h (Head.patched b p blackout)
  let r := r.modLine b.line fun x => { x with addrMap := upd x.addrMap b.address (some h) }
  if (r.lines.get b.line).state.inService then r.enterIdentifying now h else r

/-- A PATCH record (R7, R8). -/
def Rig.patch (now : Nat) (blackout : Bool) (r : Rig) (x : PatchRec) : Rig × Answer :=
  match x.binding with
  | none => (r, .refused .malformed)
  | some (h, b) =>
    if (r.heads.get h).avail ≠ .unpatched then (r, .refused .inUse)
    else if ((r.lines.get b.line).addrMap.get b.address).isSome then (r, .refused .bound)
    else match r.profiles.get b.profile with
    | none => (r, .refused .noProfile)
    | some p => (r.bind now h b p blackout, .done [])

/-- A patched head's context released (R19, R104). -/
def Rig.unbind (now : Nat) (r : Rig) (h : HeadIx) : Rig :=
  let r := r.endMove now h .unpatched
  let r := r.withdraw h (Command.names h)
  let r := match (r.heads.get h).binding with
    | none => r
    | some b => r.modLine b.line fun x => { x with
      addrMap := upd x.addrMap b.address none
      work := x.work.stop (fun e => e.head == h) true }
  r.putHead now h Head.unpatched

/-- An UNPATCH record (R19). -/
def Rig.unpatch (now : Nat) (r : Rig) (n : Nat) : Rig × Answer :=
  match headOf n with
  | none => (r, .refused .malformed)
  | some h =>
    if (r.heads.get h).avail = .unpatched then (r, .refused .notPatched) else (r.unbind now h, .done [])

/-- A CLEAR_HEAD record (R17). -/
def Rig.clearHead (r : Rig) (n : Nat) : Rig × Answer :=
  match headOf n with
  | none => (r, .refused .malformed)
  | some h =>
    match (r.heads.get h).avail with
    | .unpatched => (r, .refused .notPatched)
    | .fault => (r.request h (.service h .clear), .done [])
    | .identifying | .mismatch | .active | .lost | .offline => (r, .refused .wrongState)

/-! ### RELEASE records (R31, R32) -/

/-- A RELEASE record's fields lie in their ranges (R31). -/
def ReleaseRec.formOk (x : ReleaseRec) : Bool :=
  x.layer == 1 && (x.position || x.colour || x.beam) && decide (1 ≤ x.count) && decide (x.count ≤ 8) &&
  (x.ranges.take x.count).all rangeOk && decide (x.fade ≤ 60000)

/-- A LIVE COLOUR cell released: removed, with a transition from the present output (R31). -/
def Head.releaseColour (now fade : Nat) (h : Head) : Head :=
  { h with liveCol := none, colRelease := some ⟨h.colourOutput now, now, fade⟩ }

/-- A LIVE BEAM cell released (R31). -/
def Head.releaseBeam (now fade : Nat) (h : Head) : Head :=
  { h with liveBeam := none, beamRelease := some ⟨h.beamOutput now, now, fade⟩ }

/-- The aim goes back to the SHOW layer (R32). -/
def Rig.releasePosition (now fade : Nat) (r : Rig) (h : HeadIx) : Rig :=
  let r := r.touchHead h fun x => { x with livePos := none }
  let x := r.heads.get h
  match x.showPos, x.binding with
  | some c, some b =>
    if x.avail = .active ∧ (x.move.isSome ∨ x.accepted.map Accepted.point ≠ some (b.effective c.target)) then
      (r.handOver now h ⟨c.target, fade, none, false⟩).1
    else r
  | _, _ => r

/-- A head's named LIVE cells released, and how many they were (R31). -/
def Rig.releaseHead (now : Nat) (x : ReleaseRec) (acc : Rig × Nat) (h : HeadIx) : Rig × Nat :=
  let r := acc.1
  if (r.heads.get h).avail = .unpatched then acc
  else
    let col := x.colour && (r.heads.get h).liveCol.isSome
    let beam := x.beam && (r.heads.get h).liveBeam.isSome
    let pos := x.position && (r.heads.get h).livePos.isSome
    let r := if col then (r.touchHead h (Head.releaseColour now x.fade)).lookChange now h else r
    let r := if beam then (r.touchHead h (Head.releaseBeam now x.fade)).lookChange now h else r
    let r := if pos then r.releasePosition now x.fade h else r
    (r, acc.2 + col.toNat + beam.toNat + pos.toNat)

/-- A RELEASE record (R31). -/
def Rig.releaseLive (now : Nat) (r : Rig) (x : ReleaseRec) : Rig × Answer :=
  if !x.formOk then (r, .refused .malformed)
  else
    let hs := (List.finRange 512).filter (named (x.ranges.take x.count))
    let p := hs.foldl (Rig.releaseHead now x) (r, 0)
    (p.1, .done (le16 p.2))

end Sys2Proof.Machine
end

