-- ==== Sys2Proof/Machine/LineControl.lean ====
section
/-! DEFINITION. The Line Controllers: what begins transmission (R60, R100 to R102, R105), the choice (R97 to R99), clean
completions, collisions and jams (R107 to R109), attempts and receptions (R102, R103, R106, R113 to R117), and LINE
records (R90, R91). -/

namespace Sys2Proof.Machine

/-! ### Beginning a transmission -/

/-- The line's work set. -/
def Rig.setWork (r : Rig) (l : LineIx) (w : Work) : Rig := r.modLine l fun x => { x with work := w }

/-- The colour components of a head's profile. -/
def Rig.componentsOf (r : Rig) (h : HeadIx) : List Component :=
  match r.profileOf h with
  | some p => p.components
  | none => []

/-- A LOOK built and begun (R29, R30, R35, R101); dark first it carries intensity 0. -/
def Rig.beginLook (now : Nat) (r : Rig) (l : LineIx) (a : AddrIx) (dark : Bool) : Rig :=
  match (r.lines.get l).addrMap.get a with
  | none => r
  | some h =>
    let x := r.heads.get h
    let intensity := if dark then 0 else x.lookIntensity now
    let frame := lookFrame a (r.componentsOf h) (x.colourOutput now) intensity
    let r := r.touchHead h fun x => (x.endColour now).endBeam now
    r.setWork l (.look ⟨h, a, frame, intensity, now, dark, (r.lines.get l).echo⟩)

/-- An exchange begun with a frame: its first attempt is on the wire (R102). -/
def Line.beginExchange (x : Line) (k : ExKind) (h : HeadIx) (a : AddrIx) (seq : Seq) (aim : Option AimSent)
    (frame : List Byte) : Line :=
  { x with work := .exchange ⟨k, h, a, seq, aim, frame, 1, .transmitting x.echo, false, false⟩ }

/-- An exchange whose frame carries the line sequence, which it takes (R102, R118). -/
def Line.beginPlain (x : Line) (k : ExKind) (h : HeadIx) (a : AddrIx) : Line :=
  ({ x with seq := x.seq + 1 } : Line).beginExchange k h a x.seq none (plainFrame a k x.seq)

/-- The first attempt of an AIM (R60): the leg takes the head's next AIM sequence, the frame is built from the record,
the record becomes ON_WIRE. -/
def Rig.beginAim (r : Rig) (l : LineIx) (h : HeadIx) (b : Binding) (m : Move) : Rig :=
  let seq := (r.heads.get h).nextAim
  let frame := aimFrame b.address seq (b.turn m.leg.target) m.leg.time m.staged m.latch
  let m' := { m.modLeg (fun g => { g with seq := some seq }) with state := .onWire, attempts := 1 }
  let r := r.touchHead h fun x => { x with nextAim := seq + 1, move := some m' }
  r.modLine l fun x => x.beginExchange .aim h b.address seq (some ⟨m.leg.target, seq, m.staged⟩) frame

/-- A POLL begun (R98). -/
def Rig.beginPoll (now : Nat) (r : Rig) (l : LineIx) (a : AddrIx) : Rig :=
  match (r.lines.get l).addrMap.get a with
  | none => r
  | some h => r.modLine l fun x =>
    ({ x with lastPoll := now, framesSincePoll := 0, pollPos := a } : Line).beginPlain .poll h a

/-- The exchange kind of a LAMP command. -/
def LampCmd.kind : LampCmd → ExKind
  | .strike => .strike
  | .douse => .douse

/-- The exchange kind of a SERVICE command. -/
def ServiceCmd.kind : ServiceCmd → ExKind
  | .ident => .ident
  | .clear => .clear

/-- A SERVICE command applies in an availability state (R100). -/
def ServiceCmd.applies : ServiceCmd → Avail → Bool
  | .ident, a => a.awaitsIdent
  | .clear, a => a == .fault

/-- The transmission of a LATCH begins (R105). -/
def Line.beginLatch (x : Line) (n : SlotIx) (frame : List Byte) : Line :=
  { x with work := .latch n (some x.echo) frame, latchSpent := false }

/-- A command taken from the queue begins transmission if it still applies (R100); whether it did. -/
def Rig.beginCommand (r : Rig) (l : LineIx) : Command → Rig × Bool
  | .latch n => (r.modLine l fun x => x.beginLatch n (latchFrame n), true)
  | .aim h =>
    match (r.heads.get h).binding, (r.heads.get h).move with
    | some b, some m => if (r.heads.get h).avail = .active then (r.beginAim l h b m, true) else (r, false)
    | _, _ => (r, false)
  | .lamp h c =>
    match (r.heads.get h).binding with
    | some b =>
      if (r.heads.get h).avail.lookable then (r.modLine l fun x => x.beginPlain c.kind h b.address, true)
      else (r, false)
    | none => (r, false)
  | .service h c =>
    match (r.heads.get h).binding with
    | some b =>
      if c.applies (r.heads.get h).avail then (r.modLine l fun x => x.beginPlain c.kind h b.address, true)
      else (r, false)
    | none => (r, false)

/-- The queue front taken (R100): it leaves the queue, the place is refilled, and it begins transmission or is
discarded; whether it began. -/
def Rig.takeFront (r : Rig) (l : LineIx) : Rig × Bool :=
  match (r.lines.get l).queue with
  | [] => (r, false)
  | c :: q =>
    let p := (r.modLine l fun x => ({ x with queue := q } : Line).refill).beginCommand l c
    if p.2 then (p.1.modLine l fun x => { x with commandsSinceLook := x.commandsSinceLook + 1 }, true)
    else (p.1, false)

/-! ### The choice (R97 to R99) -/

/-- What a choice takes. -/
inductive Choice
  | look (a : AddrIx) (dark : Bool)
  | poll (a : AddrIx)
  | front
  | idle
  deriving DecidableEq, Repr

/-- The address of the head whose AIM is at the front and must go after a dark LOOK (R67, R99 step 1). -/
def Rig.darkFirst (r : Rig) (x : Line) : Option AddrIx :=
  match x.queue.head? with
  | some (.aim h) =>
    match (r.heads.get h).move, (r.heads.get h).binding with
    | some m, some b => if m.darken && !m.darkSent && (r.heads.get h).avail == .active then some b.address else none
    | _, _ => none
  | _ => none

/-- The earlier of two refresh due times with their addresses, the first taking a tie. -/
def earlier (a b : Option (Nat × AddrIx)) : Option (Nat × AddrIx) :=
  match a, b with
  | some x, some y => if y.1 < x.1 then some y else some x
  | some x, none => some x
  | none, y => y

/-- The earliest refresh due time of the line, the lower address taking a tie (R99). -/
def Line.earliest (x : Line) : Option (Nat × AddrIx) :=
  (List.finRange 32).foldl (fun m a => earlier m ((x.refreshDue.get a).map fun t => (t, a))) none

/-- The head whose LOOK refresh escalation sends (R99 step 2). -/
def Line.escalated (x : Line) (now : Nat) : Option AddrIx :=
  match x.earliest with
  | some (t, a) =>
    if t + x.refresh / 2 ≤ now ∨ (Config.commandsToLook ≤ x.commandsSinceLook ∧ t ≤ now) then some a else none
  | none => none

/-- The head whose refresh is due first (R99 step 5). -/
def Line.refreshNow (x : Line) (now : Nat) : Option AddrIx :=
  match x.earliest with
  | some (t, a) => if t ≤ now then some a else none
  | none => none

/-- The poll period has elapsed (R98). -/
def Line.pollElapsed (x : Line) (now : Nat) : Bool := decide (x.lastPoll + x.poll ≤ now)

/-- The first address after the poll position, upward and round, that names a head a test holds of (R98). -/
def Rig.nextPolled (r : Rig) (x : Line) (p : Head → Bool) : Option AddrIx :=
  ((List.finRange 32).map fun i => x.pollPos + 1 + i).find? fun a =>
    match x.addrMap.get a with
    | some h => p (r.heads.get h)
    | none => false

/-- Poll-wanted (R75, R98). -/
def Head.pollWanted (h : Head) : Bool := h.avail == .active && !h.settled

/-- Pollable (R98). -/
def Head.pollable (h : Head) : Bool := h.avail.lookable

/-- The front is still the MOTION command of the head whose dark LOOK has just gone out (R99). -/
def Line.afterDarkHolds (x : Line) : Bool :=
  match x.afterDark, x.queue.head? with
  | some h, some c => c == .aim h
  | _, _ => false

/-- The choice of a line without work (R99). -/
def Rig.choose (now : Nat) (r : Rig) (l : LineIx) : Choice :=
  let x := r.lines.get l
  let skip := x.afterDarkHolds
  match r.darkFirst x with
  | some a => .look a true
  | none =>
    match (if skip then none else x.escalated now) with
    | some a => .look a false
    | none =>
      match (if !skip && x.pollElapsed now && decide (Config.framesToPoll ≤ x.framesSincePoll) then
          r.nextPolled x Head.pollWanted else none) with
      | some a => .poll a
      | none =>
        if !x.queue.isEmpty then .front
        else match x.refreshNow now with
        | some a => .look a false
        | none =>
          if x.pollElapsed now then
            match (r.nextPolled x Head.pollWanted).or (r.nextPolled x Head.pollable) with
            | some a => .poll a
            | none => .idle
          else .idle

/-- The next attempt of an exchange begins (R60, R103). -/
def Rig.nextAttempt (r : Rig) (l : LineIx) (e : Exchange) : Rig :=
  let r := if e.kind = .aim then
      r.touchHead e.head fun x => { x with move := x.move.map fun m => { m with attempts := m.attempts + 1 } }
    else r
  r.modLine l fun x =>
    { x with work := .exchange { e with attempts := e.attempts + 1, phase := .transmitting x.echo } }

/-- Choices made until something begins transmission or nothing can be chosen; each discarded command costs one unit
of fuel. -/
def Rig.chooseNext (now : Nat) : Nat → Rig → LineIx → Rig
  | 0, r, _ => r
  | n + 1, r, l =>
    let c := r.choose now l
    let r := if (r.lines.get l).afterDark.isSome then r.modLine l fun x => { x with afterDark := none } else r
    match c with
    | .idle => r
    | .look a dark => r.beginLook now l a dark
    | .poll a => r.beginPoll now l a
    | .front =>
      let p := r.takeFront l
      if p.2 then p.1 else Rig.chooseNext now n p.1 l

/-- More than the commands a line can hold: 48 queued, 4 in overflow, 96 owed. -/
def lineFuel : Nat := 150

/-- The attempt abandoned for a collision is transmitted again; of a POLL it is a POLL's transmission that begins (R98,
R102, R109). -/
def Line.sendAgain (x : Line) (now : Nat) (e : Exchange) : Line :=
  let x := { x with work := .exchange { e with phase := .transmitting x.echo } }
  if e.kind = .poll then { x with lastPoll := now, framesSincePoll := 0, pollPos := e.address } else x

/-- What a RUNNING, quiet line does when its work waits for the wire (R99, R102, R105, R109). -/
def Rig.lineGo (now : Nat) (r : Rig) (l : LineIx) : Rig :=
  let x := r.lines.get l
  if x.state = .running ∧ x.quietAt = none then
    match x.work with
    | .idle => r.chooseNext now lineFuel l
    | .latch n none f => r.modLine l fun x => x.beginLatch n f
    | .exchange e =>
      match e.phase with
      | .retransmit => r.modLine l fun x => x.sendAgain now e
      | .nextAttempt => r.nextAttempt l e
      | .transmitting _ => r
      | .window _ => r
    | .look _ => r
    | .latch _ (some _) _ => r
  else r

/-- Every line that can do something does it, L0 to L15 (log 11). -/
def Rig.settleLines (now : Nat) (r : Rig) : Rig := (List.finRange 16).foldl (Rig.lineGo now) r

/-! ### Quiet (R112) -/

/-- The line has been at mark since a µs: it is quiet 40 µs later at the earliest (R112). -/
def Line.markFrom (x : Line) (micros : Nat) : Line := { x with quietAt := some (micros + Config.quietMicros) }

/-- The length byte is above 16: the reception is cut off there (R113 step 3). -/
def overlong (f : Reception) : Bool := decide (4 ≤ f.bytes.length) && decide (16 < rd8 f.bytes 3)

/-- After such a reception the part waits until the line is quiet before it receives anew (R113 step 3). -/
def endsInWait (f : Reception) : Bool := overlong f || f.cut == some .stopBit

/-- The µs before which the line cannot be quiet after a reception that ended at a µs: then, when the quiet itself cut it
off, and 40 µs later after any other end (R112, R113; log 13). -/
def quietAfter (micros : Nat) (f : Reception) : Nat :=
  if f.cut = some .quiet ∧ overlong f = false then micros else micros + Config.quietMicros

/-- Something was heard on the line up to a µs: the wait for quiet lasts at least as long as it did (R112), and the
receiver may have to wait for its end (R113). -/
def Line.heard (x : Line) (micros : Nat) (f : Reception) : Line :=
  { x with
    quietAt := some (max (x.quietAt.getD 0) (quietAfter micros f))
    awaitsQuiet := x.awaitsQuiet || endsInWait f }

/-- The line becomes quiet, no sooner than it can be, and the receiver waits no longer (R112, R113). -/
def Line.hush (x : Line) (micros : Nat) : Line :=
  match x.quietAt with
  | some t => if t ≤ micros then { x with quietAt := none, awaitsQuiet := false } else x
  | none => x

/-- LINE_QUIET: what waited for quiet begins (R112). -/
def Rig.lineQuiet (micros now : Nat) (r : Rig) (l : LineIx) : Rig :=
  (r.modLine l fun x => x.hush micros).lineGo now l

/-! ### Clean completions (R97, R101, R105, R107) -/

/-- A frame has completed cleanly at a µs: the collision run is 0, one more frame since the last POLL, and the wait for
quiet begins (R98, R107, R112). -/
def Line.cleanFrame (x : Line) (micros : Nat) : Line :=
  { x with run := 0, framesSincePoll := x.framesSincePoll + 1 }.markFrom micros

/-- Clean completion of the LOOK on the wire (R97, R101). -/
def Rig.lookComplete (micros : Nat) (r : Rig) (l : LineIx) : Rig :=
  match (r.lines.get l).work with
  | .look k =>
    let r := r.modLine l fun x => { x.cleanFrame micros with
      work := .idle
      commandsSinceLook := 0
      afterDark := if k.darkFirst then some k.head else none
      refreshDue := if x.addrMap.get k.address = some k.head then
          upd x.refreshDue k.address ((x.refreshDue.get k.address).map fun _ => k.begun + x.refresh)
        else x.refreshDue }
    if k.intensity = 0 then
      r.touchHead k.head fun x => { x with move := x.move.map fun m => { m with darkSent := true } }
    else r
  | .idle => r
  | .latch _ _ _ => r
  | .exchange _ => r

/-- Clean completion of the LATCH on the wire (R105, R86). -/
def Rig.latchComplete (micros now : Nat) (r : Rig) (l : LineIx) : Rig :=
  match (r.lines.get l).work with
  | .latch n (some _) _ => (r.modLine l fun x => { x.cleanFrame micros with work := .idle }).setOff now l n
  | .latch _ none _ => r
  | .idle => r
  | .look _ => r
  | .exchange _ => r

/-- Clean completion of an attempt's frame: its reply window opens (R102, R117). -/
def Rig.attemptSent (micros : Nat) (r : Rig) (l : LineIx) : Rig :=
  match (r.lines.get l).work with
  | .exchange e =>
    match e.phase with
    | .transmitting _ => r.modLine l fun x => { x.cleanFrame micros with
      work := .exchange { e with phase := .window (micros + Config.replyWindowMicros) } }
    | .window _ => r
    | .retransmit => r
    | .nextAttempt => r
  | .idle => r
  | .look _ => r
  | .latch _ _ _ => r

/-! ### Collisions and jams (R107 to R109) -/

/-- A frame is on the wire and its echo is checked. -/
def Work.checked : Work → Bool
  | .look k => k.echo
  | .latch _ (some e) _ => e
  | .latch _ none _ => false
  | .exchange e => match e.phase with
    | .transmitting c => c
    | .window _ => false
    | .retransmit => false
    | .nextAttempt => false
  | .idle => false

/-- What is left of the work whose frame is abandoned (R101, R102, R104, R105). That an exchange already stopped ends here,
on a RUNNING line too, is the model's choice between R102, which makes the attempt again, and R104, which allows no
further attempts (log 33). -/
def Work.abandon : Work → Work
  | .look _ => .idle
  | .latch n _ f => .latch n none f
  | .exchange e => if e.stopped then .idle else .exchange { e with phase := .retransmit }
  | .idle => .idle

/-- What is left of a line's work whose frame is abandoned: a LATCH is not held when its slot has left RUNNING while it was
on the wire (R87, R96, R105; log 16). -/
def Line.abandoned (x : Line) : Work :=
  match x.work with
  | .latch _ _ _ => if x.latchSpent then .idle else x.work.abandon
  | _ => x.work.abandon

/-- The line becomes JAMMED (R108). -/
def Rig.jam (now : Nat) (r : Rig) (l : LineIx) : Rig :=
  let r := r.leaveService now l .jammed
  r.modLine l fun x => { x.purge with
    work := .idle
    run := 0
    afterDark := none
    timer := some (now + Config.jamHoldMs) }

/-- A collision on a line (R107, log 15); the wait for quiet begins as the transmit enable is released (R112). -/
def Rig.collide (micros now : Nat) (r : Rig) (l : LineIx) : Rig :=
  if (r.lines.get l).work.checked then
    let r := r.modLine l fun x => { x.markFrom micros with
      work := x.abandoned
      collisions := x.collisions.bump
      run := min Config.collisionsToJam (x.run + 1) }
    let x := r.lines.get l
    if x.state = .running then
      if x.run < Config.collisionsToJam then
        r.modLine l fun x => { x with state := .backoff, timer := some (now + x.run) }
      else r.jam now l
    else r.setWork l .idle
  else r

/-- Expiry of a backoff (R109). -/
def Rig.backoffExpiry (now : Nat) (r : Rig) (l : LineIx) : Rig :=
  let x := r.lines.get l
  if x.state = .backoff ∧ expired now x.timer then
    r.modLine l fun x => { x with state := .running, timer := none }
  else r

/-- Expiry of a jam hold (R109). -/
def Rig.jamExpiry (now : Nat) (r : Rig) (l : LineIx) : Rig :=
  let x := r.lines.get l
  if x.state = .jammed ∧ expired now x.timer then r.enterService now l else r

/-! ### The end of an attempt (R102, R103, R104) -/

/-- The attempts an exchange makes at most (R102). -/
def ExKind.maximum : ExKind → Nat
  | .poll => 1
  | .aim | .ident | .strike | .douse | .clear => Config.attemptsPerExchange

/-- The exhaustion delivered to the command's owner (R103). -/
def Rig.exhausted (now : Nat) (r : Rig) (e : Exchange) : Rig :=
  match e.kind, e.aim with
  | .aim, some a => r.aimFailed now e.head a
  | .ident, _ => r.setIdent now e.head
  | _, _ => r

/-- An attempt has ended empty, bad or failed (R103, R104). -/
def Rig.attemptFailed (now : Nat) (r : Rig) (l : LineIx) : Rig :=
  match (r.lines.get l).work with
  | .exchange e =>
    if e.stopped then r.setWork l .idle
    else if e.attempts < e.kind.maximum then r.setWork l (.exchange { e with phase := .nextAttempt })
    else (r.setWork l .idle).exhausted now e
  | .idle => r
  | .look _ => r
  | .latch _ _ _ => r

/-- A miss delivered to the exchange's head, unless it has been unpatched (R13, R104). -/
def Rig.deliverMiss (now : Nat) (r : Rig) (e : Exchange) : Rig :=
  if e.orphaned then r else r.miss now e.head

/-- An empty or bad result (R102): the line's miss, the head's miss, the end of the attempt. -/
def Rig.missed (now : Nat) (r : Rig) (l : LineIx) (e : Exchange) : Rig :=
  let r := r.modLine l fun x => { x with misses := x.misses.bump }
  (r.deliverMiss now e).attemptFailed now l

/-- The exchange whose reply window is open. -/
def Work.listening : Work → Option (Exchange × Nat)
  | .exchange e => match e.phase with
    | .window c => some (e, c)
    | .transmitting _ => none
    | .retransmit => none
    | .nextAttempt => none
  | .idle => none
  | .look _ => none
  | .latch _ _ _ => none

/-- A reply window that closed empty at a µs was 400 µs of mark: the line is quiet unless something came later (R112). -/
def Line.emptyWindow (x : Line) (closes : Nat) : Line :=
  let q := x.quietAt.filter fun t => decide (closes < t)
  { x with quietAt := q, awaitsQuiet := x.awaitsQuiet && q.isSome }

/-- The reply window closes with no reply begun (R102). -/
def Rig.windowClose (micros now : Nat) (r : Rig) (l : LineIx) : Rig :=
  match (r.lines.get l).work.listening with
  | some (e, c) =>
    if c ≤ micros then (r.modLine l fun x => x.emptyWindow c).missed now l e else r
  | none => r

/-! ### Receptions (R102, R103, R106, R113 to R117) -/

/-- A reception as a reply: one that was cut off is bad whatever its bytes (R113, R115). -/
def replyOf (f : Reception) : Option Reply := if f.cut.isNone then decodeReply f.bytes else none

/-- The reply the addressed head gave, if the frame is one (R102, R115). -/
def goodReply (e : Exchange) (f : Reception) : Option Reply :=
  (replyOf f).filter fun p => p.address == e.address.wire

/-- A good reply ends the exchange (R103). -/
def Exchange.endedBy (e : Exchange) (p : Reply) : Bool :=
  match e.kind, p.body with
  | .ident, _ => true
  | .poll, _ => true
  | _, .accept _ => p.seq == e.seq
  | _, .refuse _ => p.seq == e.seq
  | _, _ => false

/-- A break that starts at a µs lies within the 400 µs of the window that closes at another (R117). -/
def inWindow (closes began : Nat) : Bool :=
  decide (closes ≤ began + Config.replyWindowMicros) && decide (began ≤ closes)

/-- The exchange in whose open reply window a reception began (R102, R117). -/
def Work.hears (w : Work) (began : Nat) : Option Exchange :=
  (w.listening.filter fun p => inWindow p.2 began).map Prod.fst

/-- The exchange for which a line receives what begins at a µs: none while the receiver waits for quiet (R113). -/
def Line.hears (x : Line) (began : Nat) : Option Exchange := if x.awaitsQuiet then none else x.work.hears began

/-- A good reply received in the window (R102, R103). -/
def Rig.answered (micros now : Nat) (r : Rig) (l : LineIx) (e : Exchange) (p : Reply) : Rig :=
  let r := r.modLine l fun x => x.markFrom micros
  let r := if e.orphaned then r else r.deliver now l e p
  if e.endedBy p then r.setWork l .idle else r.attemptFailed now l

/-- A good reply of a kind received on a line; a frame that is none such, or that did not begin in the window, is not
this event (log 2). -/
def Rig.receive (micros now : Nat) (r : Rig) (l : LineIx) (f : Reception) (kind : ReplyBody → Bool) : Rig :=
  match (r.lines.get l).hears f.began with
  | some e =>
    match goodReply e f with
    | some p => if kind p.body then r.answered micros now l e p else r
    | none => r
  | none => r

/-- A reception that counts a check error has ended on a line (R102, R110, R112). -/
def Line.garbled (x : Line) (micros : Nat) (f : Reception) : Line :=
  { x.heard micros f with checkErrors := x.checkErrors.bump }

/-- A bad reply received in the window (R102, R113, R115). -/
def Rig.receiveBad (micros now : Nat) (r : Rig) (l : LineIx) (f : Reception) : Rig :=
  match (r.lines.get l).hears f.began with
  | some e =>
    if (goodReply e f).isSome then r
    else (r.modLine l fun x => x.garbled micros f).missed now l e
  | none => r

/-- The line is transmitting. -/
def Work.transmitting : Work → Bool
  | .look _ => true
  | .latch _ (some _) _ => true
  | .latch _ none _ => false
  | .exchange e => match e.phase with
    | .transmitting _ => true
    | .window _ => false
    | .retransmit => false
    | .nextAttempt => false
  | .idle => false

/-- What begins at a µs outside any reply window counts no check error: it begins while the receiver waits for quiet and
is not received (R113 step 3), or in a window that a SOFT_RESET closed, and is discarded (R88, log 21). -/
def Line.uncounted (x : Line) (began : Nat) : Bool :=
  x.awaitsQuiet || x.cutWindow.any fun c => decide (began ≤ c)

/-- A reception outside any reply window (R106, R112). -/
def Line.stray (x : Line) (micros : Nat) (f : Reception) : Line :=
  { x.heard micros f with checkErrors := if x.uncounted f.began then x.checkErrors else x.checkErrors.bump }

/-- A stray frame on a line that is not transmitting and has no reply window open in which it began (R106, R117). -/
def Rig.strayFrame (micros : Nat) (r : Rig) (l : LineIx) (f : Reception) : Rig :=
  let x := r.lines.get l
  if x.work.transmitting || (x.hears f.began).isSome then r else r.modLine l fun x => x.stray micros f

/-! ### LINE records (R90, R91) -/

/-- The fields of a LINE record lie in their ranges, but for the line number (R90). -/
def LineRec.formOk (x : LineRec) : Bool :=
  (x.refresh == 0 || (decide (10 ≤ x.refresh) && decide (x.refresh ≤ 200))) &&
  (x.poll == 0 || (decide (5 ≤ x.poll) && decide (x.poll ≤ 100)))

/-- The periods and the echo check flag taken (R90 steps 1 and 2). -/
def Line.configure (x : Line) (c : LineRec) : Line :=
  { x with
    refresh := if c.refresh = 0 then Config.refreshDefault else c.refresh
    poll := if c.poll = 0 then Config.pollDefault else c.poll
    echo := c.echo
    run := if x.echo && !c.echo then 0 else x.run }

/-- What is left of a line's work when the line is disabled (R90, R104). -/
def Work.disable (w : Work) : Work :=
  match w with
  | .latch _ none _ => .idle
  | w => w.stop (fun _ => true) false

/-- The line is disabled (R90 step 3). -/
def Rig.disable (now : Nat) (r : Rig) (l : LineIx) : Rig :=
  let r := r.leaveService now l .disabled
  r.modLine l fun x => { x.purge with work := x.work.disable, afterDark := none }

/-- The enable flag acts according to the line state (R90 step 3). -/
def Rig.enable (now : Nat) (r : Rig) (l : LineIx) (on : Bool) : Rig :=
  match (r.lines.get l).state, on with
  | .disabled, true => r.enterService now l
  | .running, false => r.disable now l
  | .backoff, false => r.disable now l
  | .jammed, false => r.modLine l fun x => { x with state := .disabled, timer := none }
  | _, _ => r

/-- A counter reset (R91); the line's entry is marked whether or not a counter changes. -/
def Rig.resetCounters (now : Nat) (r : Rig) (l : LineIx) : Rig :=
  let r := (r.modLine l fun x => { x with
    collisions := Counter.zero, misses := Counter.zero, checkErrors := Counter.zero }).mark (lineEntry l)
  (r.lines.get l).bound.foldl (fun r h => r.modHead now h fun x => { x with missTotal := Counter.zero }) r

/-- An accepted LINE record (R90, R91). -/
def Rig.configureLine (now : Nat) (r : Rig) (l : LineIx) (c : LineRec) : Rig :=
  let r := (r.modLine l fun x => x.configure c).enable now l c.enable
  if c.resetCounters then r.resetCounters now l else r

/-- A LINE record (R90). -/
def Rig.lineRecord (now : Nat) (r : Rig) (c : LineRec) : Rig × Answer :=
  match lineOf c.line with
  | none => (r, .refused .malformed)
  | some l => if c.formOk then (r.configureLine now l c, .done []) else (r, .refused .malformed)

end Sys2Proof.Machine
end

