-- ==== Sys2Proof/Machine/Scheduler.lean ====
section
/-! DEFINITION. The Cue Scheduler: admission (R138 to R141), firing and passing over (R143 to R145, R148), jump marking
(R147), cancellation (R152); and the order in which one event's work on fixtures and cues is brought to rest. -/

namespace Sys2Proof.Machine

/-- The firing states (R127). -/
def ClockState.firing : ClockState → Bool
  | .internal | .locked | .freewheel => true
  | .halted | .seeking | .held => false

/-! ### Admission (R138 to R141) -/

/-- A head entry of a CUE record is well formed (R140). -/
def EntryRec.formOk (e : EntryRec) : Bool :=
  decide (e.head ≤ 511) && (e.position || e.colour || e.beam || e.lamp != 0) && decide (e.lamp ≤ 2) &&
  (!e.position || (panOk e.pan && tiltOk e.tilt && decide (e.moveTime ≤ 60000))) &&
  (!e.colour || (decide (e.colourCount ≤ 6) && decide (e.colourFade ≤ 60000))) &&
  (!e.beam || decide (e.beamFade ≤ 60000))

/-- A CUE record is well formed (R140). -/
def CueRec.formOk (c : CueRec) : Bool :=
  decide (c.layer ≤ 1) && (!c.goPresent || decide (c.goTime ≤ Config.lastShowMs)) && decide (c.skip ≤ 1) &&
  (!c.together || c.latchWait == 0 || (decide (10 ≤ c.latchWait) && decide (c.latchWait ≤ 1000))) &&
  decide (1 ≤ c.count) && decide (c.count ≤ 64) && c.entries.all EntryRec.formOk &&
  decide (c.entries.map EntryRec.head).Nodup

/-- The six target components of a COLOUR entry: those beyond its count are 0 (R23). -/
def EntryRec.target (e : EntryRec) : Colour :=
  Vector.ofFn fun k => if k.val < e.colourCount then e.values.get k else 0

/-- The pool entry a well-formed head entry gives (R139). -/
def EntryRec.kept (e : EntryRec) : Option Entry :=
  (headOf e.head).map fun h =>
    { head := h
      position := if e.position then some ⟨⟨e.pan, e.tilt⟩, e.moveTime⟩ else none
      colour := if e.colour then some ⟨e.colourCount, e.target, e.colourFade⟩ else none
      beam := if e.beam then some ⟨e.intensity, e.beamFade⟩ else none
      lamp := if e.lamp = 1 then .strike else if e.lamp = 2 then .douse else .none }

/-- Pool entries in use (R139). -/
def poolUsed (cs : List Cue) : Nat := (cs.map fun c => c.entries.length).sum

/-- A cue's place by go-time, behind those of equal go-time (R138). -/
def insertCue (cs : List Cue) (c : Cue) : List Cue :=
  cs.takeWhile (fun d => decide (d.goTime ≤ c.goTime)) ++ c :: cs.dropWhile (fun d => decide (d.goTime ≤ c.goTime))

/-- The cue a well-formed record gives at a show time, in or out of a firing state (R138, R141). -/
def CueRec.admitted (c : CueRec) (h : RecordHead) (showTime : Nat) (firing : Bool) : Cue where
  tag := h.tag
  offset := h.offset
  layer := if c.layer = 0 then .show else .live
  goTime := if c.goPresent then c.goTime else showTime
  policy := if c.skip = 0 then .fire else .drop
  together := c.together
  latchWait := if !c.together || c.latchWait == 0 then Config.latchWaitDefault else c.latchWait
  entries := c.entries.filterMap EntryRec.kept
  skip := c.goPresent && decide (c.goTime < showTime) && firing
  noted := false

/-- A CUE record taken (R140, R141). -/
def State.admitCue (s : State) (h : RecordHead) (c : CueRec) : State × Answer :=
  if !c.formOk then (s, .refused .malformed)
  else if s.cues.any (fun d => d.tag == h.tag) then (s, .refused .duplicateTag)
  else if decide (Config.pendingCues ≤ s.cues.length) || decide (Config.poolEntries < poolUsed s.cues + c.entries.length) then
    (s, .refused .full)
  else ({ s with cues := insertCue s.cues (c.admitted h s.clock.showTime s.clock.state.firing) },
    ⟨.taken, .ok, []⟩)

/-! ### Firing and passing over (R143 to R145, R148, R151) -/

/-- The lowest-numbered FREE slot (R143). -/
def Rig.freeSlot (r : Rig) : Option SlotIx := (List.finRange 64).find? fun k => (r.slots.get k).isNone

/-- How late a show time is for a go-time (R144, R151). -/
def lateness (showTime goTime : Nat) : Nat := min (showTime - goTime) 65535

/-- The slot a firing cue takes (R144 steps 1 and 2). -/
def Cue.running (c : Cue) (showTime now : Nat) : Running where
  tag := c.tag
  offset := c.offset
  together := c.together
  latchWait := c.latchWait
  fireShow := showTime
  fireEngine := now
  lateness := lateness showTime c.goTime
  outstanding := 0
  counts := ⟨0, 0, 0, 0, 0, 0⟩
  lateFire := decide (0 < lateness showTime c.goTime)
  skipped := c.skip
  gathering := Gathering.none
  applied := false
  retired := false

/-- A cue applied in its slot: its entries, its gathering, its retirement when nothing is outstanding (R144 steps 4, 6
and 7). -/
def Rig.fireCue (now : Nat) (r : Rig) (k : SlotIx) (c : Cue) (x : Running) : Rig :=
  let r := { r with slots := upd r.slots k (some x) }
  let r := c.entries.foldl (Rig.applyEntry now c.layer k c.together) r
  let r := if c.together then r.setGathering now k else r
  (r.modSlot k fun y => { y with applied := true }).retireIfDone k

/-- A firing (R144): the cue leaves the list, its pool entries with it. -/
def State.fire (s : State) (k : SlotIx) (c : Cue) (rest : List Cue) : State :=
  { s with
    cues := rest
    rig := s.rig.fireCue s.now k c (c.running s.clock.showTime s.now) }

/-- The final update of a passed-over cue (R148, R151). -/
def Cue.passedUpdate (c : Cue) (showTime : Nat) : Update where
  offset := c.offset
  state := .passed
  code := .ok
  area := cueArea showTime (lateness showTime c.goTime) ⟨0, 0, 0, 0, 0, 0⟩ false true
  slot := none

/-- A marked DROP cue at the front is passed over (R148). -/
def State.passOver (s : State) (c : Cue) (rest : List Cue) : State :=
  { s with cues := rest }.listUpdates [c.passedUpdate s.clock.showTime]

/-- A marked DROP cue (R148). -/
def Cue.dropped (c : Cue) : Bool := c.skip && c.policy == .drop

/-- A front cue to be fired is ready but for a slot (R143, R148). -/
def State.dueToFire (s : State) (c : Cue) : Bool :=
  s.clock.state.firing && (c.skip || decide (c.goTime ≤ s.clock.showTime))

/-- A ready front cue finds no FREE slot: CAPACITY is latched once (R143). -/
def State.waitForSlot (s : State) (c : Cue) (rest : List Cue) : State :=
  if c.noted then s
  else { s with cues := { c with noted := true } :: rest }.latchCause .capacity

/-- Every cue that is ready is fired or passed over, one after another in list order (R143, R148); free places of the
write-back list go to held final updates first (R168), and that of a cue which retires as it fires is listed at once
(R149), of the last one too. -/
def State.pump : Nat → State → State
  | 0, s => s.givePlaces
  | n + 1, s =>
    let s := s.givePlaces
    match s.cues with
    | [] => s
    | c :: rest =>
      if c.dropped then
        if 0 < s.wb.free then State.pump n (s.passOver c rest) else s
      else if s.dueToFire c then
        match s.rig.freeSlot with
        | some k => State.pump n (s.fire k c rest)
        | none => s.waitForSlot c rest
      else s

/-- The pending list handled at an event that may have made its front ready (log 12). -/
def State.runCues (s : State) : State := s.pump s.cues.length

/-! ### Jumps (R147) -/

/-- The skip marks a forward jump sets. -/
def markPassed (before after : Nat) (cs : List Cue) : List Cue :=
  cs.map fun c => if before < c.goTime ∧ c.goTime < after then { c with skip := true } else c

/-! ### Cancellation (R152) -/

/-- The final update of a cancelled cue (R151). -/
def Cue.cancelledUpdate (c : Cue) : Update := ⟨c.offset, .cancelled, .ok, resultArea [], none⟩

/-- The lowest slot, RUNNING or RETIRED, that carries a tag. -/
def Rig.slotOf (r : Rig) (t : Tag) : Option SlotIx := (List.finRange 64).find? fun k => r.tagOf k == some t

/-- A CANCEL record (R152): the state, the answer, and the cancelled cue's update. -/
def State.cancel (s : State) (t : Tag) : State × Answer × List Update :=
  match s.cues.find? (fun c => c.tag == t) with
  | some c =>
    ({ s with cues := s.cues.filter fun d => d.tag != t },
      .done (le64 c.offset ++ le32 c.goTime), [c.cancelledUpdate])
  | none =>
    match s.rig.slotOf t with
    | some k => (s, ⟨.done, .notPending, resultArea [byteOf k.val]⟩, [])
    | none => (s, ⟨.done, .notFound, resultArea []⟩, [])

end Sys2Proof.Machine
end

