-- ==== Sys2Proof/Machine/ShowClock.lean ====
section
/-! DEFINITION. The Show Clock: running show time (R127), settings and jumps (R128, R137), CLOCK records (R129 to R132),
timecode frames (R133 to R136) and the clock's timers (R135, R136). -/

namespace Sys2Proof.Machine

/-! ### Running (R127) -/

/-- Show time runs. -/
def Clock.runs (c : Clock) : Bool :=
  match c.state with
  | .internal | .locked | .freewheel => true
  | .seeking => c.seekRuns
  | .halted | .held => false

/-- One millisecond of engine time (R127). -/
def Clock.tick (c : Clock) : Clock :=
  if c.runs then { c with showTime := min (c.showTime + 1) Config.lastShowMs } else c

/-- One microsecond in which nothing is commanded (log 1): engine time in milliseconds, and with it running show time,
moves on at each thousandth. -/
def State.tick (s : State) : State :=
  { s with
    micros := s.micros + 1
    clock := if (s.micros + 1) % Config.microsPerMilli = 0 then s.clock.tick else s.clock }

/-! ### Settings and jumps (R128) -/

/-- What a setting of show time is. -/
inductive Jump
  | none | forward | backward
  deriving DecidableEq, Repr

/-- Jump codes of a CLOCK record's result area (R179). -/
def Jump.code : Jump → Nat
  | .none => 0
  | .forward => 1
  | .backward => 2

/-- The jump test (R128). -/
def Clock.jump (c : Clock) (value : Nat) : Jump :=
  if c.showTime + c.threshold < value then .forward
  else if value + c.threshold < c.showTime then .backward
  else .none

/-- The clock takes new values at an event, with the jump that its setting of show time made: CLOCK is latched once at
a change of state or a jump, and the Cue Scheduler has its report (R128, R137, R147). -/
def State.setClock (s : State) (c : Clock) (j : Jump) : State :=
  let marked := if j = .forward then markPassed s.clock.showTime c.showTime s.cues else s.cues
  let t := { s with clock := c, cues := marked }
  if j ≠ .none ∨ c.state ≠ s.clock.state then t.latchCause .clock else t

/-- Timecode tracking discarded (R130, R132). -/
def Clock.untrack (c : Clock) : Clock :=
  { c with
    seekRuns := false
    lockRun := 0
    lastFrame := none
    lossTimer := none
    freewheelDeadline := none
    freewheelStart := none }

/-! ### CLOCK records (R129 to R132) -/

/-- A rate field. -/
def rateOf (n : Nat) : Option Rate :=
  if n = 24 then some .fps24 else if n = 25 then some .fps25 else if n = 30 then some .fps30 else none

/-- Frames per second. -/
def Rate.fps : Rate → Nat
  | .fps24 => 24
  | .fps25 => 25
  | .fps30 => 30

/-- The CHASE fields: rate, freewheel limit, jump threshold with their defaults; none when out of range (R129). -/
def ClockRec.chase (x : ClockRec) : Option (Rate × Nat × Nat) :=
  match rateOf x.rate with
  | none => none
  | some r =>
    if (x.limit = 65535 ∨ x.limit ≤ 30000) ∧ (x.threshold = 0 ∨ (20 ≤ x.threshold ∧ x.threshold ≤ 5000)) then
      some (r, if x.limit = 65535 then Config.freewheelDefault else x.limit,
        if x.threshold = 0 then Config.thresholdDefault else x.threshold)
    else none

/-- The result area of a CLOCK record (R129, R179). -/
def clockArea (c : Clock) (j : Jump) (replaced : Nat) : List Byte :=
  resultArea ([byteOf c.state.code, byteOf j.code, 0, 0] ++ le32 c.showTime ++ le32 replaced)

/-- The answer to an accepted CLOCK record. A HALT or CHASE replaces no show time: that its area then gives show time as it
stands as the one replaced is the model's choice (log 36). -/
def clockDone (before after : Clock) (j : Jump) : Answer := ⟨.done, .ok, clockArea after j before.showTime⟩

/-- The answer to a refused CLOCK record. -/
def clockMalformed (c : Clock) : Answer := ⟨.refused, .malformed, clockArea c .none c.showTime⟩

/-- An INTERNAL record's clock (R130). -/
def Clock.internal (c : Clock) (start : Nat) (run : Bool) : Clock :=
  { c.untrack with state := if run then .internal else .halted, showTime := start }

/-- A CLOCK record with command INTERNAL (R130). -/
def State.clockInternal (s : State) (x : ClockRec) : State × Answer :=
  if x.start ≤ Config.lastShowMs then
    let c := s.clock.internal x.start x.run
    let j := s.clock.jump x.start
    (s.setClock c j, clockDone s.clock c j)
  else (s, clockMalformed s.clock)

/-- A HALT record's clock (R131); in HALTED it changes nothing. -/
def Clock.halt (c : Clock) : Clock := if c.state = .halted then c else { c.untrack with state := .halted }

/-- A CLOCK record with command HALT (R131). -/
def State.clockHalt (s : State) : State × Answer :=
  (s.setClock s.clock.halt .none, clockDone s.clock s.clock.halt .none)

/-- Entry into CHASE_SEEKING by a CHASE record (R132). -/
def Clock.seek (c : Clock) : Clock := { c.untrack with state := .seeking }

/-- The freewheel deadline has been reached: FREEWHEEL becomes HELD, a running seek stands still (R136). -/
def Clock.freewheelOver (c : Clock) : Clock :=
  { c with
    state := if c.state = .freewheel then .held else c.state
    seekRuns := false
    freewheelDeadline := none
    freewheelStart := none }

/-- The freewheel deadline recomputed from its start, with its effect if it has passed (R132). -/
def Clock.recompute (c : Clock) (now : Nat) : Clock :=
  match c.freewheelStart with
  | some t =>
    if t + c.limit ≤ now then c.freewheelOver else { c with freewheelDeadline := some (t + c.limit) }
  | none => c

/-- A CHASE record's clock (R132). -/
def Clock.chase (c : Clock) (now : Nat) (rate : Rate) (limit threshold : Nat) : Clock :=
  let same := decide (rate = c.rate)
  let c := { c with rate := rate, limit := limit, threshold := threshold }
  match c.state with
  | .halted | .internal => c.seek
  | .seeking => if same then c.recompute now else c.untrack
  | .freewheel => if same then c.recompute now else c.seek
  | .locked | .held => if same then c else c.seek

/-- A CLOCK record with command CHASE (R132). -/
def State.clockChase (s : State) (x : ClockRec) : State × Answer :=
  match x.chase with
  | some (rate, limit, threshold) =>
    let c := s.clock.chase s.now rate limit threshold
    (s.setClock c .none, clockDone s.clock c .none)
  | none => (s, clockMalformed s.clock)

/-! ### Timecode frames (R133 to R136) -/

/-- A decoded frame is valid at a rate (R133). -/
def frameValid (t : Timecode) (r : Rate) : Bool :=
  decide (t.hours ≤ 23) && decide (t.minutes ≤ 59) && decide (t.seconds ≤ 59) && decide (t.frames < r.fps)

/-- The whole second of the show day a frame stands in. -/
def frameSecond (t : Timecode) : Nat := (t.hours * 60 + t.minutes) * 60 + t.seconds

/-- The value of a frame (R133). -/
def frameValue (t : Timecode) (r : Rate) : Nat := frameSecond t * 1000 + t.frames * 1000 / r.fps

/-- The index of a frame (R133). -/
def frameIndex (t : Timecode) (r : Rate) : Nat := frameSecond t * r.fps + t.frames

/-- The index after an index (R133). -/
def Rate.after (r : Rate) (i : Nat) : Nat := if i + 1 = 86400 * r.fps then 0 else i + 1

/-- Three frame periods, rounded up to whole milliseconds (R135). -/
def Rate.lossMs (r : Rate) : Nat := (3000 + r.fps - 1) / r.fps

/-- A frame continues the lock run (R134). -/
def Clock.continues (c : Clock) (now index : Nat) : Bool :=
  match c.lastFrame with
  | some f => index == c.rate.after f.index && decide ((now - f.arrival) * c.rate.fps ≤ 2000)
  | none => false

/-- The clock locks at a frame's value (R134). -/
def Clock.lock (c : Clock) (now value : Nat) : Clock :=
  { c.untrack with state := .locked, showTime := value, lossTimer := some (now + c.rate.lossMs) }

/-- A valid frame while seeking (R134): the run goes on or begins anew, and its third frame locks. -/
def Clock.seekFrame (c : Clock) (now value index : Nat) : Clock × Jump :=
  let run := if c.continues now index then c.lockRun + 1 else 1
  if 3 ≤ run then (c.lock now value, c.jump value)
  else ({ c with lockRun := run, lastFrame := some ⟨index, now⟩ }, .none)

/-- A valid frame ends the wait for timecode (R136): from FREEWHEEL show time runs on. -/
def Clock.reseek (c : Clock) (now index : Nat) : Clock :=
  { c with
    state := .seeking
    seekRuns := decide (c.state = .freewheel)
    lockRun := 1
    lastFrame := some ⟨index, now⟩ }

/-- A valid frame taken by the clock (R133 to R136). -/
def Clock.frame (c : Clock) (now value index : Nat) : Clock × Jump :=
  match c.state with
  | .halted | .internal => (c, .none)
  | .seeking => c.seekFrame now value index
  | .locked => ({ c with showTime := value, lossTimer := some (now + c.rate.lossMs) }, c.jump value)
  | .freewheel | .held => (c.reseek now index, .none)

/-- Timecode frames are taken in this state (R133). -/
def ClockState.chasing : ClockState → Bool
  | .seeking | .locked | .freewheel | .held => true
  | .halted | .internal => false

/-- The frame that is taken when one arrives, decoded or not (R133). -/
def Clock.takes (c : Clock) (f : Option Timecode) : Option Timecode :=
  f.filter fun t => frameValid t c.rate && c.state.chasing

/-- A valid frame taken (R133). -/
def State.timecode (s : State) (t : Timecode) : State :=
  let cj := s.clock.frame s.now (frameValue t s.clock.rate) (frameIndex t s.clock.rate)
  s.setClock cj.1 cj.2

/-! ### The clock's timers (R135, R136) -/

/-- The loss timer expires in CHASE_LOCKED (R135); with a limit of 0 the clock passes into HELD. -/
def Clock.lose (c : Clock) (now : Nat) : Clock :=
  let c := { c with
    state := .freewheel
    lossTimer := none
    freewheelDeadline := some (now + c.limit)
    freewheelStart := some now }
  if c.limit = 0 then c.freewheelOver else c

/-- Expiry of the loss timer (R135). -/
def State.lossExpiry (s : State) : State :=
  if s.clock.state = .locked ∧ expired s.now s.clock.lossTimer then s.setClock (s.clock.lose s.now) .none else s

/-- Expiry of the freewheel deadline (R136). -/
def State.freewheelExpiry (s : State) : State :=
  if expired s.now s.clock.freewheelDeadline then s.setClock s.clock.freewheelOver .none else s

end Sys2Proof.Machine
end

