-- ==== Sys2Proof/Machine/ChainReader.lean ====
section
/-! DEFINITION. The Bus Master (R165 to R167), the Write-Back Unit's choice and its writes (R168 to R174), the Chain
Reader's scans (R155 to R163), and the taking of a record (R163, R164). -/

namespace Sys2Proof.Machine

/-! ### The Write-Back Unit's choice (R170, R171, R174) -/

/-- The first marked entry at or after the sweep position, in cyclic order (R170). -/
def State.nextMarked (s : State) : Option MirrorIx :=
  ((List.finRange 528).map fun i => s.wb.sweep + i).find? fun e => s.rig.marks.get e

/-- The waiting header sample is ready (R174). -/
def WriteBack.headerReady (w : WriteBack) : Bool :=
  match w.waiting with
  | some p => p.barrier == 0
  | none => false

/-- The Write-Back Unit's next write (R171). -/
def State.chooseWrite (s : State) : Option WriteReq :=
  match (if Config.updatesPerMirror ≤ s.wb.sinceMirror then s.nextMarked else none) with
  | some e => some (.mirror e)
  | none =>
    if s.wb.headerReady then some .header
    else if !s.wb.list.isEmpty then some .result
    else s.nextMarked.map WriteReq.mirror

/-- The Write-Back Unit may write: READING or PAUSED (R171). -/
def EngineState.writes : EngineState → Bool
  | .reading | .paused => true
  | .idle | .busPaused => false

/-- An access is the Chain Reader's. -/
def Access.isRead : Access → Bool
  | .read _ => true
  | .result _ => false
  | .state _ => false
  | .mirror _ _ _ => false
  | .header _ => false

/-- An access of the Write-Back Unit is outstanding. -/
def Bus.writing (b : Bus) : Bool :=
  match b.outstanding with
  | some o => !o.access.isRead
  | none => false

/-- The Write-Back Unit asks for its next write, when it may and has none asked for or outstanding (R171). -/
def State.askWrite (s : State) : State :=
  if s.chain.engine.writes && s.bus.writerReq.isNone && !s.bus.writing then
    { s with bus := { s.bus with writerReq := s.chooseWrite } }
  else s

/-! ### Issuing accesses (R165, R170, R172) -/

/-- An access issued, with its completion timer (R165). -/
def State.issue (s : State) (a : Access) : State :=
  { s with bus := { s.bus with
    outstanding := some ⟨a, s.micros + Config.completionMicros, false⟩
    lastIssued := some (if a.isRead then .reader else .writer) } }

/-- The contents and the carried state of a mirror entry with a stamp (R172, R173). -/
def Rig.mirrorEntry (r : Rig) (e : MirrorIx) (stamp : BitVec 16) : Carried × List Byte :=
  if h : e.val < 512 then
    let k : HeadIx := ⟨e.val, h⟩
    (.head k (r.heads.get k).avail, headEntryBytes stamp (r.heads.get k))
  else
    let l : LineIx := ⟨e.val - 512, by omega⟩
    (.line l (r.lines.get l).state, lineEntryBytes stamp (r.lines.get l))

/-- A mirror write issued: stamp raised, mark cleared, sweep moved on, the count of updates since made 0 (R170, R171,
R172). -/
def State.issueMirror (s : State) (e : MirrorIx) : State :=
  let stamp := s.wb.stamps.get e + 1
  let c := s.rig.mirrorEntry e stamp
  { s with
    wb := { s.wb with stamps := upd s.wb.stamps e stamp, sweep := e + 1, sinceMirror := 0 }
    rig := { s.rig with marks := upd s.rig.marks e false } }.issue (.mirror e c.1 c.2)

/-- The Write-Back Unit's request issued; one whose subject is gone, which no run holds, is dropped. -/
def State.issueWrite (s : State) (w : WriteReq) : State :=
  let s := { s with bus := { s.bus with writerReq := none } }
  match w, s.wb.list, s.wb.waiting with
  | .result, u :: _, _ => s.issue (.result u)
  | .state, u :: _, _ => s.issue (.state u)
  | .mirror e, _, _ => s.issueMirror e
  | .header, _, some p => s.issue (.header p.sample)
  | _, _, _ => s

/-- The Chain Reader's request issued. -/
def State.issueRead (s : State) (op : ReadOp) : State :=
  { s with bus := { s.bus with readerReq := none } }.issue (.read op)

/-- The bus, if free, takes a waiting request: with both waiting, of the requester not last served (R165). In IDLE only
a start's header read waits; in BUS_PAUSED nothing is issued (R166). -/
def State.arbitrate (s : State) : State :=
  if s.bus.outstanding.isSome || s.chain.engine == .busPaused then s
  else match s.bus.readerReq, s.bus.writerReq with
  | some op, some w => if s.bus.lastIssued = some .reader then s.issueWrite w else s.issueRead op
  | some op, none => s.issueRead op
  | none, some w => s.issueWrite w
  | none, none => s

/-- The Write-Back Unit and the Bus Master do what they can. -/
def State.settleBus (s : State) : State := s.askWrite.arbitrate

/-- The end of an event: places given, lines, then the bus (log 9, log 10, log 11). -/
def State.settle (s : State) : State :=
  let s := s.givePlaces
  (s.withRig (s.rig.settleLines s.now)).settleBus

/-- An event on the fixture side, and what it leads to. -/
def State.onRig (s : State) (f : Nat → Rig → Rig) : State := (s.withRig (f s.now s.rig)).settle

/-! ### Header samples (R159, R174) -/

/-- A sample of the five part-written header fields (R159). -/
def State.sample (s : State) : Sample :=
  ⟨s.chain.follow.getD 0, s.chain.takenCount, s.clock.showTime, s.clock.state, s.chain.engine⟩

/-- A sample handed to the Write-Back Unit (R174). -/
def State.handOverSample (s : State) (p : Sample) : State :=
  let held : HeldSample := ⟨p, s.wb.list.length⟩
  { s with
    chain := { s.chain with lastSample := some p }
    wb := if s.wb.waiting.isNone then { s.wb with waiting := some held } else { s.wb with later := some held } }

/-- A sample handed over when it differs from the last (R159). -/
def State.sampleIfChanged (s : State) : State :=
  if s.chain.lastSample = some s.sample then s else s.handOverSample s.sample

/-! ### Scans (R160 to R162) -/

/-- A scan begins with its first link (R160). -/
def State.beginScan (s : State) : State :=
  { s with
    chain := { s.chain with scan := some 0, scanTimer := none }
    bus := { s.bus with readerReq := some (.link (s.chain.follow.getD 0)) } }

/-- A scan ends: the scan timer is set and a sample made (R159, R160). -/
def State.endScan (s : State) : State :=
  { s with chain := { s.chain with
    scan := none
    holding := none
    scanTimer := some (s.micros + s.regs.scanPeriod) } }.sampleIfChanged

/-- The chain condition taken, CHAIN being latched on entry into BROKEN and into STUCK (R161, R162). The condition is what
the last scan to end left: a scan that began under BROKEN, took records and meets another broken link does not enter
BROKEN anew, and latches no CHAIN (the model's choice, log 35). -/
def State.setCondition (s : State) (c : ChainCondition) : State :=
  let t := { s with chain := { s.chain with condition := c } }
  if (c = .broken ∨ c = .stuck) ∧ s.chain.condition ≠ c then t.latchCause .chain else t

/-- The scan has taken a record. -/
def Chain.tookOne (c : Chain) : Bool :=
  match c.scan with
  | some n => decide (0 < n)
  | none => false

/-- The scan did not end waiting. -/
def State.notWaiting (s : State) : State := { s with chain := { s.chain with waitedAt := none } }

/-- The scan ends by its limit or for lack of room (R160). -/
def State.endFull (s : State) : State :=
  ((if s.chain.tookOne then s.setCondition .clear else s).notWaiting).endScan

/-- The scan ends at a link of 0 (R160, R162). -/
def State.endClear (s : State) : State :=
  let s := (s.setCondition .clear).notWaiting
  { s with chain := { s.chain with waitingCount := 0 } }.endScan

/-- The scan ends at a broken link (R161). -/
def State.endBroken (s : State) : State := ((s.setCondition .broken).notWaiting).endScan

/-- The waiting count of a scan that ends waiting at an offset (R162). -/
def Chain.waitsAt (c : Chain) (offset : Nat) : Nat :=
  if c.waitedAt = some offset then min Config.stuckCount (c.waitingCount + 1) else 1

/-- The scan ends waiting at an offset (R162). -/
def State.endWaiting (s : State) (offset : Nat) : State :=
  let n := s.chain.waitsAt offset
  let s := s.setCondition (if n < Config.stuckCount then .waiting else .stuck)
  { s with chain := { s.chain with waitingCount := n, waitedAt := some offset } }.endScan

/-- Two stretches of the region share a byte. -/
def stretchesMeet (a n b m : Nat) : Bool := decide (a < b + m) && decide (b < a + n)

/-- A stretch lies wholly within the region and clear of the header and the mirrors (R161, R163). -/
def Region.fits (r : Region) (offset length : Nat) : Bool :=
  decide (offset + length ≤ r.size) && decide (Config.headerBytes ≤ offset) &&
    !stretchesMeet offset length r.headMirror Config.headMirrorBytes &&
    !stretchesMeet offset length r.lineMirror Config.lineMirrorBytes

/-- A stretch fits the kept region. -/
def State.fits (s : State) (offset length : Nat) : Bool :=
  match s.chain.region with
  | some r => r.fits offset length
  | none => false

/-- A link other than 0 is broken (R161). -/
def State.broken (s : State) (link : Nat) : Bool := link % 16 != 0 || !s.fits link Config.recordHeadBytes

/-- The Chain Reader asks for a read. -/
def State.askRead (s : State) (op : ReadOp) : State := { s with bus := { s.bus with readerReq := some op } }

/-- A link followed within a scan (R160, R161, R163). -/
def State.followLink (s : State) (link : Nat) : State :=
  if link = 0 then s.endClear
  else if s.broken link then s.endBroken
  else if s.wb.free < Config.takingPlaces then s.endFull
  else s.askRead (.head link)

/-- A record's offset has an update still listed that does not carry POSTED; none does (R162). -/
def State.listed (s : State) (offset : Nat) : Bool := s.wb.list.any fun u => u.offset == offset

/-- All reads of a record have completed: with room it is held for its taking (R163 step 4). -/
def State.recordRead (s : State) (r : Record) : State :=
  if s.wb.free < Config.takingPlaces then s.endFull
  else { s with chain := { s.chain with holding := some r } }

/-- A record head read (R162, R163 steps 1 to 3). -/
def State.headRead (s : State) (h : RecordHead) : State :=
  if h.state != RecState.posted.code || s.listed h.offset then s.endWaiting h.offset
  else match bodyLength h.kind with
  | none => s.recordRead ⟨h, .unknown⟩
  | some n =>
    if !s.fits h.offset (Config.recordHeadBytes + n) then s.endBroken
    else s.askRead (if h.kind = 1 then .cueFixed h else .body h)

/-- A CUE's fixed part read (R163 steps 2 and 3). -/
def State.fixedRead (s : State) (h : RecordHead) (b : List Byte) : State :=
  let n := cueEntryBytes (cueCount b)
  if !s.fits h.offset (Config.recordHeadBytes + 16 + n) then s.endBroken
  else if n = 0 then s.recordRead ⟨h, .cue (parseCue b [])⟩
  else s.askRead (.cueEntries h b)

/-! ### Starting (R156) -/

/-- The tests of a START in IDLE (R156). -/
def startTest (base size : Nat) : Option StartOutcome :=
  if base % Config.regionAlign ≠ 0 then some .baseMisaligned
  else if size < Config.regionMin ∨ Config.regionMax < size ∨ size % Config.regionAlign ≠ 0 ∨
      18446744073709551616 < base + size then some .sizeInvalid
  else none

/-- The mirror offsets of a header are placed as they must be (R156). -/
def mirrorsOk (size head line : Nat) : Bool :=
  head % 64 == 0 && line % 64 == 0 && decide (Config.headerBytes ≤ head) && decide (Config.headerBytes ≤ line) &&
    decide (head + Config.headMirrorBytes ≤ size) && decide (line + Config.lineMirrorBytes ≤ size) &&
    !stretchesMeet head Config.headMirrorBytes line Config.lineMirrorBytes

/-- A start in IDLE begins or ends refused (R156). -/
def State.beginStart (s : State) : State :=
  match startTest s.regs.regionBase.toNat s.regs.regionSize.toNat with
  | some o => { s with chain := { s.chain with outcome := o } }
  | none => ({ s with chain := { s.chain with outcome := .pending, starting := true } }.askRead .header).settle

/-- A start succeeds (R156, R170). -/
def State.started (s : State) (head line : Nat) : State :=
  { s with
    chain := { s.chain with
      engine := .reading, starting := false, outcome := .ok
      region := some ⟨s.regs.regionBase.toNat, s.regs.regionSize.toNat, head, line⟩
      follow := none, takenCount := 0, waitingCount := 0, waitedAt := none, condition := .clear, lastSample := none }
    rig := { s.rig with marks := Vector.replicate 528 true } }.beginScan

/-- A start's header has been read (R156). -/
def State.headerArrived (s : State) (b : List Byte) : State :=
  let head := rd64 b 8
  let line := rd64 b 0x10
  if mirrorsOk s.regs.regionSize.toNat head line then s.started head line
  else { s with chain := { s.chain with starting := false, outcome := .mirrorPlacement } }

/-! ### Completions of reads (R160 to R163, R165) -/

/-- A read is of a row's kind. -/
def ReadOp.isHeader : ReadOp → Bool
  | .header => true
  | .link _ => false
  | .head _ => false
  | .body _ => false
  | .cueFixed _ => false
  | .cueEntries _ _ => false

/-- A read is of a link. -/
def ReadOp.isLink : ReadOp → Bool
  | .link _ => true
  | .header => false
  | .head _ => false
  | .body _ => false
  | .cueFixed _ => false
  | .cueEntries _ _ => false

/-- A read is of a record head. -/
def ReadOp.isHead : ReadOp → Bool
  | .head _ => true
  | .header => false
  | .link _ => false
  | .body _ => false
  | .cueFixed _ => false
  | .cueEntries _ _ => false

/-- A read is of a record body or a part of one. -/
def ReadOp.isBody : ReadOp → Bool
  | .body _ => true
  | .cueFixed _ => true
  | .cueEntries _ _ => true
  | .header => false
  | .link _ => false
  | .head _ => false

/-- The Chain Reader goes on with what a read brought. -/
def State.readDone (s : State) (op : ReadOp) (b : List Byte) : State :=
  match op with
  | .header => s.headerArrived b
  | .link _ => s.followLink (rd64 b 0)
  | .head o => s.headRead (parseHead o b)
  | .body h => s.recordRead ⟨h, parseBody h.kind b⟩
  | .cueFixed h => s.fixedRead h b
  | .cueEntries h f => s.recordRead ⟨h, .cue (parseCue f b)⟩

/-- The outstanding access while its completion timer has not passed: a completion that comes later is discarded (R165;
log 3). -/
def State.onTime (s : State) : Option Outstanding := s.bus.outstanding.filter fun o => decide (s.micros ≤ o.expiry)

/-- The outstanding access leaves the bus. -/
def State.freeBus (s : State) : State := { s with bus := { s.bus with outstanding := none } }

/-- Completion of a read of a kind with its bytes; data of a read given up are discarded (R157). A completion that
brings other bytes than were asked for is not this event (log 2, log 7). -/
def State.completeRead (s : State) (b : List Byte) (kind : ReadOp → Bool) : State :=
  match s.onTime with
  | some ⟨.read op, _, givenUp⟩ =>
    if kind op && b.length == op.length then
      (if givenUp then s.freeBus else s.freeBus.readDone op b).settle
    else s
  | _ => s

/-! ### Completions of writes (R169, R172, R174) -/

/-- A result write completes: the state write follows (R169). -/
def State.resultWritten (s : State) : State :=
  match s.onTime with
  | some ⟨.result _, _, _⟩ =>
    { s with bus := { s.bus with outstanding := none, writerReq := some .state } }.settle
  | _ => s

/-- One listed update fewer before a sample (R174). -/
def HeldSample.step (p : HeldSample) : HeldSample := { p with barrier := p.barrier - 1 }

/-- The front update leaves the list (R169, R171, R174). -/
def WriteBack.frontWritten (w : WriteBack) : WriteBack :=
  { w with
    list := w.list.drop 1
    sinceMirror := min Config.updatesPerMirror (w.sinceMirror + 1)
    waiting := w.waiting.map HeldSample.step
    later := w.later.map HeldSample.step }

/-- A RETIRED slot becomes FREE (R150). -/
def Rig.freeSlotOf (r : Rig) (k : Option SlotIx) : Rig :=
  match k with
  | some k => { r with slots := upd r.slots k none }
  | none => r

/-- What a completed state write does beside going on (R169, R150). -/
def State.updateWritten (s : State) (u : Update) : State :=
  let s := { s.freeBus with wb := s.wb.frontWritten, rig := s.rig.freeSlotOf u.slot }
  if u.state.final then s.latchCause .result else s

/-- A state write completes (R169, R150, R168, R143). -/
def State.stateWritten (s : State) : State :=
  match s.onTime with
  | some ⟨.state u, _, _⟩ => (s.updateWritten u).givePlaces.runCues.settle
  | _ => s

/-- The last written state of an entry replaced; HEAD or LINE latched when it differs (R172). -/
def State.carried (s : State) (c : Carried) : State :=
  match c with
  | .head h a =>
    let t := { s with wb := { s.wb with lastHead := upd s.wb.lastHead h a } }
    if s.wb.lastHead.get h = a then t else t.latchCause .head
  | .line l a =>
    let t := { s with wb := { s.wb with lastLine := upd s.wb.lastLine l a } }
    if s.wb.lastLine.get l = a then t else t.latchCause .line

/-- A mirror write completes (R172). -/
def State.mirrorWritten (s : State) : State :=
  match s.onTime with
  | some ⟨.mirror _ c _, _, _⟩ => (s.freeBus.carried c).settle
  | _ => s

/-- A header write completes (R174). -/
def State.headerWritten (s : State) : State :=
  match s.onTime with
  | some ⟨.header _, _, _⟩ =>
    { s.freeBus with wb := { s.wb with waiting := s.wb.later, later := none } }.settle
  | _ => s

/-! ### Failures (R156, R165, R166) -/

/-- The engine enters BUS_PAUSED (R166). -/
def State.busPause (s : State) (o : Outstanding) : State :=
  { s with
    chain := { s.chain with
      engine := .busPaused, scanTimer := none, scan := none, holding := none
      waitedAt := if s.chain.scan.isSome then none else s.chain.waitedAt }
    bus := { s.bus with
      outstanding := none, readerReq := none
      held := if o.givenUp then none else some o.access } }

/-- The outstanding access fails (R166, R156). -/
def State.accessFails (s : State) (o : Outstanding) : State :=
  let s := s.latchCause .bus
  if s.chain.engine = .idle then
    { s.freeBus with chain := { s.chain with starting := false, outcome := .headerBusError } }
  else s.busPause o

/-! ### PAUSE and START (R155, R157, R167) -/

/-- The Chain Reader gives up its outstanding read (R157). -/
def Bus.giveUpRead (b : Bus) : Bus :=
  { b with
    readerReq := none
    outstanding := b.outstanding.map fun o => if o.access.isRead then { o with givenUp := true } else o }

/-- A PAUSE taken in READING (R157). One that ends a scan in progress hands over one sample, the PAUSED one, and none of
the scan's end beside it (the model's choice between the two occasions of R159, log 34). -/
def State.pauseReading (s : State) : State :=
  let s := { s with
    chain := { s.chain with
      engine := .paused, scanTimer := none, scan := none, holding := none
      waitedAt := if s.chain.scan.isSome then none else s.chain.waitedAt }
    bus := s.bus.giveUpRead }
  (s.handOverSample s.sample).settle

/-- A START taken in BUS_PAUSED (R167): the held access is issued first. -/
def State.retry (s : State) : State :=
  let s := { s with chain := { s.chain with engine := .reading } }
  match s.bus.held with
  | none => s.beginScan.settle
  | some a =>
    let s := { s with bus := { s.bus with held := none } }.issue a
    if a.isRead then { s with chain := { s.chain with scan := some 0, scanTimer := none } }.settle
    else s.beginScan.settle

/-! ### The taking of a record (R163, R164) -/

/-- A record dispatched: the state its owner left, the owner's answer, further updates of the same event, and whether
the pending list is to be handled. -/
structure Taken where
  state : State
  answer : Answer
  extra : List Update
  cues : Bool

/-- The record's own update (R164). -/
def Answer.update (a : Answer) (r : Record) : Update := ⟨r.head.offset, a.state, a.code, a.area, none⟩

/-- The follow record moves to the record taken (R163 step 5). -/
def Chain.taken (c : Chain) (r : Record) : Chain :=
  { c with
    follow := some r.head.offset
    takenCount := c.takenCount + 1
    waitingCount := 0
    waitedAt := none
    holding := none
    scan := c.scan.map (· + 1) }

/-- The scan goes on after a taking, or ends by its limit (R160). -/
def State.continueScan (s : State) (link : Nat) : State :=
  match s.chain.scan with
  | some n => if Config.recordsPerScan ≤ n then s.endFull else s.followLink link
  | none => s

/-- The taking of a record once its owner has acted (R163 step 5, R164). -/
def Taken.finish (t : Taken) (r : Record) : State :=
  let s := t.state.listUpdates (t.answer.update r :: t.extra)
  let s := { s with chain := s.chain.taken r }
  let s := s.givePlaces
  let s := if t.cues then s.runCues else s
  (s.continueScan r.head.next).settle

/-- The held record is taken by its owner; without one of the owner's kind nothing happens (log 5), and without room it
is not taken (R163 step 4). -/
def State.take (s : State) (owner : Record → Option Taken) : State :=
  match s.chain.holding with
  | none => s
  | some r =>
    match owner r with
    | none => s
    | some t => if s.wb.free < Config.takingPlaces then s.endFull.settle else t.finish r

/-- A record dispatched to an owner that acts on the fixture side alone. -/
def State.dispatched (s : State) (x : Rig × Answer) : Taken := ⟨s.withRig x.1, x.2, [], false⟩

end Sys2Proof.Machine
end

