-- ==== Sys2Proof/Machine/RegisterCommands.lean ====
section
/-! DEFINITION. The meanings of the register window's commands: the reset, the engine commands, register writes and the
one register read that changes state (R36, R37, R154 to R158, R175, R176, R178). -/

namespace Sys2Proof.Machine

/-- The end of a line's reply window that a SOFT_RESET closes (R88). -/
def Work.windowEnd (w : Work) : Option Nat := w.listening.map Prod.snd

/-- A line after a SOFT_RESET at a µs: as after a card reset, but that it remembers the last window one closed (R88,
log 21), and waits for quiet after a frame that was cut off, or as it did (R112). -/
def Line.softReset (micros : Nat) (x : Line) : Line :=
  { Line.reset with
    cutWindow := max x.work.windowEnd x.cutWindow
    quietAt := if x.work.transmitting then some (micros + Config.quietMicros) else x.quietAt }

/-- The state after a SOFT_RESET (R158): that of a card reset, but for four registers and engine time. -/
def State.softReset (s : State) : State :=
  { State.reset with
    pending := s.pending
    micros := s.micros
    regs := { Registers.reset with
      regionBase := s.regs.regionBase
      regionSize := s.regs.regionSize
      scanPeriod := s.regs.scanPeriod
      mask := s.regs.mask }
    rig := { Rig.reset with lines := s.rig.lines.map (Line.softReset s.micros) } }

/-- REGION_BASE and REGION_SIZE take writes: IDLE with no start in progress (R154). -/
def State.regionOpen (s : State) : Bool := s.chain.engine == .idle && !s.chain.starting

/-- A half of REGION_BASE replaced (R178). -/
def setHalf (base : BitVec 64) (half : Half) (v : Word) : BitVec 64 :=
  match half with
  | .low => base.extractLsb' 32 32 ++ v
  | .high => v ++ base.extractLsb' 0 32

/-- SCAN_PERIOD clamped (R154). -/
def clampPeriod (n : Nat) : Nat := min Config.scanPeriodMax (max Config.scanPeriodMin n)

/-- CARD_RESET (R154): everything but the queue of waiting commands is as right after reset. -/
def execCardReset (s : State) : Result := .next { State.reset with pending := s.pending }

/-! ### What each write does -/

/-- START (R155, R156, R157, R167). -/
def State.startCommand (s : State) : State :=
  match s.chain.engine with
  | .idle => if s.chain.starting then s else s.beginStart
  | .reading => s
  | .paused => ({ s with chain := { s.chain with engine := .reading } }).beginScan.settle
  | .busPaused => s.retry

/-- PAUSE (R155, R157). -/
def State.pauseCommand (s : State) : State :=
  match s.chain.engine with
  | .reading => s.pauseReading
  | .idle => s
  | .paused => s
  | .busPaused => s

/-- BLACKOUT (R36). -/
def State.blackoutCommand (s : State) : State :=
  if s.regs.blackout then s
  else ({ s with regs := { s.regs with blackout := true } }).onRig fun now r => r.setBlackout now true

/-- RESTORE (R37). -/
def State.restoreCommand (s : State) : State :=
  if s.regs.blackout then
    ({ s with regs := { s.regs with blackout := false } }).onRig fun now r => r.setBlackout now false
  else s

/-- A write to a half of REGION_BASE (R154, R178). -/
def State.writeBase (s : State) (half : Half) (value : Word) : State :=
  if s.regionOpen then { s with regs := { s.regs with regionBase := setHalf s.regs.regionBase half value } } else s

/-- A write to REGION_SIZE (R154). -/
def State.writeSize (s : State) (value : Word) : State :=
  if s.regionOpen then { s with regs := { s.regs with regionSize := value } } else s

/-- A write to SCAN_PERIOD (R154). -/
def State.writePeriod (s : State) (value : Word) : State :=
  { s with regs := { s.regs with scanPeriod := clampPeriod value.toNat } }

/-- A write to ATTENTION_MASK (R176, R178). -/
def State.writeMask (s : State) (value : Word) : State := { s with regs := { s.regs with mask := Causes.ofWord value } }

/-- A write to CONTROL (R178): bits 0 to 7 are the command code, the other bits and an unknown code are ignored. -/
def State.writeControl (s : State) (value : Word) : State :=
  let code := value.toNat % 256
  if code = 0x01 then s.startCommand
  else if code = 0x02 then s.pauseCommand
  else if code = 0x0F then s.softReset
  else if code = 0x10 then s.blackoutCommand
  else if code = 0x11 then s.restoreCommand
  else s

/-- A host's write to the window (R178): four bytes wide at an offset that takes writes; any other is ignored. -/
def State.hostWrite (s : State) (offset width : Nat) (value : Word) : State :=
  if width ≠ 4 then s
  else if offset = 0x00 then s.writeControl value
  else if offset = 0x08 then s.writeBase .low value
  else if offset = 0x0C then s.writeBase .high value
  else if offset = 0x10 then s.writeSize value
  else if offset = 0x14 then s.writePeriod value
  else if offset = 0x20 then s.writeMask value
  else s

/-! ### The meanings -/

/-- START written to CONTROL (R155). -/
def execStart (s : State) : Result := .next s.startCommand

/-- PAUSE written to CONTROL (R157). -/
def execPause (s : State) : Result := .next s.pauseCommand

/-- SOFT_RESET (R158). -/
def execSoftReset (s : State) : Result := .next s.softReset

/-- BLACKOUT (R36). -/
def execBlackout (s : State) : Result := .next s.blackoutCommand

/-- RESTORE (R37). -/
def execRestore (s : State) : Result := .next s.restoreCommand

/-- A write to a half of REGION_BASE (R154, R178). -/
def execRegionBaseWrite (half : Half) (value : Word) (s : State) : Result := .next (s.writeBase half value)

/-- A write to REGION_SIZE (R154). -/
def execRegionSizeWrite (value : Word) (s : State) : Result := .next (s.writeSize value)

/-- A write to SCAN_PERIOD (R154). -/
def execScanPeriodWrite (value : Word) (s : State) : Result := .next (s.writePeriod value)

/-- A read of ATTENTION_TAKE (R175): `lastTake` is what it returns. -/
def execAttentionTake (s : State) : Result :=
  .next { s with regs := { s.regs with
    lastTake := s.regs.latch.toWord
    latch := s.regs.latch.minus s.regs.latch } }

/-- A write to ATTENTION_MASK (R176, R178). -/
def execAttentionMaskWrite (value : Word) (s : State) : Result :=
  .next (s.writeMask value)

/-- A write given by its offset, width and value has the effect that R178 decodes it to: a write of no other row, which
is what this row is for (`otherWrite`), is ignored (R155, R178). -/
def execRegisterWriteOther (offset width : Nat) (value : Word) (s : State) : Result :=
  .next (s.hostWrite offset width value)

end Sys2Proof.Machine
end

