-- ==== Sys2Proof/Machine/BusCommands.lean ====
section
/-! DEFINITION. The meanings of the scan timer, of the completions of reads and writes, and of their failures (R156, R160
to R163, R165 to R174). -/

namespace Sys2Proof.Machine

/-- A start's header read completes (R156). -/
def execHeaderRead (bytes : List Byte) (s : State) : Result := .next (s.completeRead bytes ReadOp.isHeader)

/-- The scan timer expires (R160). -/
def execScanTimer (s : State) : Result :=
  .next (if s.chain.engine = .reading ∧ expired s.micros s.chain.scanTimer then s.beginScan.settle else s)

/-- A link read completes (R160, R161). -/
def execLinkRead (bytes : List Byte) (s : State) : Result := .next (s.completeRead bytes ReadOp.isLink)

/-- A record head read completes (R162, R163). -/
def execRecordHeadRead (bytes : List Byte) (s : State) : Result := .next (s.completeRead bytes ReadOp.isHead)

/-- A record body read, or that of a part of one, completes (R163). -/
def execRecordBodyRead (bytes : List Byte) (s : State) : Result := .next (s.completeRead bytes ReadOp.isBody)

/-- A result write completes (R169). -/
def execResultWrite (s : State) : Result := .next s.resultWritten

/-- A state write completes (R169, R150). -/
def execStateWrite (s : State) : Result := .next s.stateWritten

/-- A mirror entry write completes (R172). -/
def execMirrorWrite (s : State) : Result := .next s.mirrorWritten

/-- A header update write completes (R174). -/
def execHeaderWrite (s : State) : Result := .next s.headerWritten

/-- The outstanding access's completion timer expires (R165, R166). -/
def execCompletionTimer (s : State) : Result :=
  .next (match s.bus.outstanding with
    | some o => if o.expiry ≤ s.micros then s.accessFails o else s
    | none => s)

/-- The outstanding access completes with an error (R165, R166). -/
def execBusAccessError (s : State) : Result :=
  .next (match s.onTime with
    | some o => s.accessFails o
    | none => s)

end Sys2Proof.Machine
end

