-- ==== Sys2Proof/Machine/RecordCommands.lean ====
section
/-! DEFINITION. The meanings of the records taken, by kind (R163, R164): each takes the held record if it is of its row. -/

namespace Sys2Proof.Machine

/-- A CUE record taken (R140, R141). -/
def execCue (s : State) : Result :=
  .next (s.take fun r => match r.body with
    | .cue c => let x := s.admitCue r.head c
      some ⟨x.1, x.2, [], true⟩
    | _ => none)

/-- A CANCEL record taken (R152). -/
def execCancel (s : State) : Result :=
  .next (s.take fun r => match r.body with
    | .cancel t => let x := s.cancel t
      some ⟨x.1, x.2.1, x.2.2, true⟩
    | _ => none)

/-- A RELEASE record taken (R31, R32). -/
def execRelease (s : State) : Result :=
  .next (s.take fun r => match r.body with
    | .release x => some (s.dispatched (s.rig.releaseLive s.now x))
    | _ => none)

/-- A PATCH record taken (R7, R8). -/
def execPatch (s : State) : Result :=
  .next (s.take fun r => match r.body with
    | .patch x => some (s.dispatched (s.rig.patch s.now s.regs.blackout x))
    | _ => none)

/-- An UNPATCH record taken (R19). -/
def execUnpatch (s : State) : Result :=
  .next (s.take fun r => match r.body with
    | .unpatch h => some (s.dispatched (s.rig.unpatch s.now h))
    | _ => none)

/-- A CLEAR_HEAD record taken (R17). -/
def execClearHead (s : State) : Result :=
  .next (s.take fun r => match r.body with
    | .clearHead h => some (s.dispatched (s.rig.clearHead h))
    | _ => none)

/-- A PROFILE record without the remove flag taken (R3). -/
def execProfile (s : State) : Result :=
  .next (s.take fun r => match r.body with
    | .profile x => if x.remove then none else some (s.dispatched (s.rig.defineProfile x))
    | _ => none)

/-- A PROFILE record with the remove flag taken (R4). -/
def execProfileRemove (s : State) : Result :=
  .next (s.take fun r => match r.body with
    | .profile x => if x.remove then some (s.dispatched (s.rig.removeProfile x.slot)) else none
    | _ => none)

/-- A SECTOR record without the remove flag taken (R46, R47, R49). -/
def execSector (s : State) : Result :=
  .next (s.take fun r => match r.body with
    | .sector x => if x.remove then none else some (s.dispatched (s.rig.defineSector s.now x))
    | _ => none)

/-- A SECTOR record with the remove flag taken (R48, R49). -/
def execSectorRemove (s : State) : Result :=
  .next (s.take fun r => match r.body with
    | .sector x => if x.remove then some (s.dispatched (s.rig.removeSector s.now x.slot)) else none
    | _ => none)

/-- A LINE record taken (R90, R91). -/
def execLine (s : State) : Result :=
  .next (s.take fun r => match r.body with
    | .line x => some (s.dispatched (s.rig.lineRecord s.now x))
    | _ => none)

/-- A command of no CLOCK row (R129, log 6). -/
def ClockRec.unknown (x : ClockRec) : Bool := x.command != 1 && x.command != 2 && x.command != 3

/-- A CLOCK record with command INTERNAL taken (R130). -/
def execClockInternal (s : State) : Result :=
  .next (s.take fun r => match r.body with
    | .clock x =>
      if x.command = 1 then let y := s.clockInternal x
        some ⟨y.1, y.2, [], decide (x.start ≤ Config.lastShowMs)⟩
      else if x.unknown then some ⟨s, clockMalformed s.clock, [], false⟩
      else none
    | _ => none)

/-- A CLOCK record with command HALT taken (R131). -/
def execClockHalt (s : State) : Result :=
  .next (s.take fun r => match r.body with
    | .clock x =>
      if x.command = 2 then some ⟨s.clockHalt.1, s.clockHalt.2, [], false⟩
      else if x.unknown then some ⟨s, clockMalformed s.clock, [], false⟩
      else none
    | _ => none)

/-- A CLOCK record with command CHASE taken (R132). -/
def execClockChase (s : State) : Result :=
  .next (s.take fun r => match r.body with
    | .clock x =>
      if x.command = 3 then let y := s.clockChase x
        some ⟨y.1, y.2, [], false⟩
      else if x.unknown then some ⟨s, clockMalformed s.clock, [], false⟩
      else none
    | _ => none)

/-- A record of unknown kind taken (R163). -/
def execUnknownKindRecord (s : State) : Result :=
  .next (s.take fun r => match r.body with
    | .unknown => some ⟨s, .refused .unknownKind, [], false⟩
    | _ => none)

end Sys2Proof.Machine
end

