-- ==== Sys2Proof/Machine/ShowCommands.lean ====
section
/-! DEFINITION. The meanings of the Cue Scheduler's and the Show Clock's events (R127, R133 to R136, R144, R148), and of
the timers of heads, moves and gatherings (R9, R42, R78, R84). -/

namespace Sys2Proof.Machine

/-- The front cue is a marked DROP cue (R148). -/
def State.frontDropped (s : State) : Bool :=
  match s.cues with
  | c :: _ => c.dropped
  | [] => false

/-- A ready front cue fires (R143, R144), and those ready behind it. -/
def execFiring (s : State) : Result := .next (if s.frontDropped then s else s.runCues.settle)

/-- A marked DROP cue at the front is passed over (R148), and what is ready behind it handled. -/
def execPassedOver (s : State) : Result := .next (if s.frontDropped then s.runCues.settle else s)

/-- Running show time reaches the end of the show day and stays there (R127, log 30). -/
def execShowDayEnd (s : State) : Result :=
  .next { s with clock := { s.clock with showTime := min s.clock.showTime Config.lastShowMs } }

/-- A timecode frame arrives (R133 to R136). -/
def execTimecodeFrame (frame : Option Timecode) (s : State) : Result :=
  .next (match s.clock.takes frame with
    | some t => (s.timecode t).runCues.settle
    | none => s)

/-- The loss timer expires (R135). -/
def execLossTimer (s : State) : Result := .next s.lossExpiry

/-- The freewheel deadline expires (R136). -/
def execFreewheelDeadline (s : State) : Result := .next s.freewheelExpiry

/-- A head's identification timer expires (R9). -/
def execIdentificationTimer (head : Fin 512) (s : State) : Result :=
  .next (s.onRig fun now r => r.identExpiry now head)

/-- A head's strike timer expires (R42). -/
def execStrikeTimer (head : Fin 512) (s : State) : Result := .next (s.onRig fun now r => r.strikeExpiry now head)

/-- A head's cooling timer expires (R42). -/
def execCoolingTimer (head : Fin 512) (s : State) : Result := .next (s.onRig fun now r => r.coolingExpiry now head)

/-- The deadline of a head's TRAVELLING move expires (R78). -/
def execDeadline (head : Fin 512) (s : State) : Result := .next (s.onRig fun now r => r.deadlineExpiry now head)

/-- The latch deadline of a slot's gathering expires (R84). -/
def execLatchDeadline (slot : Fin 64) (s : State) : Result := .next (s.onRig fun now r => r.latchExpiry now slot)

end Sys2Proof.Machine
end

