-- ==== Sys2Proof/Machine/LineCommands.lean ====
section
/-! DEFINITION. The meanings of the events on a fixture line: choices that become possible, completions, collisions, and
receptions (R97 to R117). -/

namespace Sys2Proof.Machine

/-- A refresh becomes due: an idle line makes its choice (R97, R99). -/
def execRefreshDue (line : Fin 16) (s : State) : Result := .next (s.onRig fun now r => r.lineGo now line)

/-- The poll period elapses: an idle line makes its choice (R98, R99). -/
def execPollPeriodElapsed (line : Fin 16) (s : State) : Result := .next (s.onRig fun now r => r.lineGo now line)

/-- The line becomes quiet (R112); what waited for that begins. -/
def execLineQuiet (line : Fin 16) (s : State) : Result :=
  .next (s.onRig fun now r => r.lineQuiet s.micros now line)

/-- A backoff expires (R109). -/
def execBackoffExpiry (line : Fin 16) (s : State) : Result := .next (s.onRig fun now r => r.backoffExpiry now line)

/-- A jam hold expires (R109, R21). -/
def execJamHoldExpiry (line : Fin 16) (s : State) : Result := .next (s.onRig fun now r => r.jamExpiry now line)

/-- A byte read back differs from the byte sent (R107, R108). -/
def execCollision (line : Fin 16) (s : State) : Result :=
  .next (s.onRig fun now r => r.collide s.micros now line)

/-- A LOOK completes cleanly (R101). -/
def execLookComplete (line : Fin 16) (s : State) : Result :=
  .next (s.onRig fun _ r => r.lookComplete s.micros line)

/-- A LATCH completes cleanly (R105, R86). -/
def execLatchComplete (line : Fin 16) (s : State) : Result :=
  .next (s.onRig fun now r => r.latchComplete s.micros now line)

/-- An attempt's frame completes cleanly (R102). -/
def execAttemptSent (line : Fin 16) (s : State) : Result :=
  .next (s.onRig fun _ r => r.attemptSent s.micros line)

/-- A reply window closes with no reply begun (R102). -/
def execReplyWindowClose (line : Fin 16) (s : State) : Result :=
  .next (s.onRig fun now r => r.windowClose s.micros now line)

/-- An ACCEPT received in a reply window (R103). -/
def execAccept (line : Fin 16) (frame : Reception) (s : State) : Result :=
  .next (s.onRig fun now r => r.receive s.micros now line frame fun b =>
    match b with | .accept _ => true | _ => false)

/-- A REFUSE received in a reply window (R103). -/
def execRefuse (line : Fin 16) (frame : Reception) (s : State) : Result :=
  .next (s.onRig fun now r => r.receive s.micros now line frame fun b =>
    match b with | .refuse _ => true | _ => false)

/-- A STATUS received in a reply window (R123). -/
def execStatus (line : Fin 16) (frame : Reception) (s : State) : Result :=
  .next (s.onRig fun now r => r.receive s.micros now line frame fun b =>
    match b with | .status _ => true | _ => false)

/-- A DESCRIPTOR received in a reply window (R124). -/
def execDescriptor (line : Fin 16) (frame : Reception) (s : State) : Result :=
  .next (s.onRig fun now r => r.receive s.micros now line frame ReplyBody.isDescriptor)

/-- A reception in a reply window that is no reply of the addressed head (R102, R113). -/
def execBadReply (line : Fin 16) (frame : Reception) (s : State) : Result :=
  .next (s.onRig fun now r => r.receiveBad s.micros now line frame)

/-- A reception outside any reply window (R106). -/
def execStrayFrame (line : Fin 16) (frame : Reception) (s : State) : Result :=
  .next (s.onRig fun _ r => r.strayFrame s.micros line frame)

end Sys2Proof.Machine
end

