-- ==== Sys2Proof/Machine/Dispatch.lean ====
section
/-! DEFINITION. One arm per command: a direct call of its meaning. -/

namespace Sys2Proof.Machine

/-- The effect of a command on everything but the queue of waiting commands. -/
def exec (i : Instr) (s : State) : Host.Outcome State Fault Refusal :=
  match i with
  | .cardReset => Sys2Proof.Machine.execCardReset s
  | .start => Sys2Proof.Machine.execStart s
  | .pause => Sys2Proof.Machine.execPause s
  | .softReset => Sys2Proof.Machine.execSoftReset s
  | .blackout => Sys2Proof.Machine.execBlackout s
  | .restore => Sys2Proof.Machine.execRestore s
  | .regionBaseWrite half v => Sys2Proof.Machine.execRegionBaseWrite half v s
  | .regionSizeWrite v => Sys2Proof.Machine.execRegionSizeWrite v s
  | .scanPeriodWrite v => Sys2Proof.Machine.execScanPeriodWrite v s
  | .attentionTake => Sys2Proof.Machine.execAttentionTake s
  | .attentionMaskWrite v => Sys2Proof.Machine.execAttentionMaskWrite v s
  | .registerWriteOther o w v => Sys2Proof.Machine.execRegisterWriteOther o w v s
  | .headerRead b => Sys2Proof.Machine.execHeaderRead b s
  | .scanTimer => Sys2Proof.Machine.execScanTimer s
  | .linkRead b => Sys2Proof.Machine.execLinkRead b s
  | .recordHeadRead b => Sys2Proof.Machine.execRecordHeadRead b s
  | .recordBodyRead b => Sys2Proof.Machine.execRecordBodyRead b s
  | .cue => Sys2Proof.Machine.execCue s
  | .cancel => Sys2Proof.Machine.execCancel s
  | .release => Sys2Proof.Machine.execRelease s
  | .patch => Sys2Proof.Machine.execPatch s
  | .unpatch => Sys2Proof.Machine.execUnpatch s
  | .clearHead => Sys2Proof.Machine.execClearHead s
  | .profile => Sys2Proof.Machine.execProfile s
  | .profileRemove => Sys2Proof.Machine.execProfileRemove s
  | .sector => Sys2Proof.Machine.execSector s
  | .sectorRemove => Sys2Proof.Machine.execSectorRemove s
  | .line => Sys2Proof.Machine.execLine s
  | .clockInternal => Sys2Proof.Machine.execClockInternal s
  | .clockHalt => Sys2Proof.Machine.execClockHalt s
  | .clockChase => Sys2Proof.Machine.execClockChase s
  | .unknownKindRecord => Sys2Proof.Machine.execUnknownKindRecord s
  | .resultWrite => Sys2Proof.Machine.execResultWrite s
  | .stateWrite => Sys2Proof.Machine.execStateWrite s
  | .mirrorWrite => Sys2Proof.Machine.execMirrorWrite s
  | .headerWrite => Sys2Proof.Machine.execHeaderWrite s
  | .completionTimer => Sys2Proof.Machine.execCompletionTimer s
  | .busAccessError => Sys2Proof.Machine.execBusAccessError s
  | .firing => Sys2Proof.Machine.execFiring s
  | .passedOver => Sys2Proof.Machine.execPassedOver s
  | .showDayEnd => Sys2Proof.Machine.execShowDayEnd s
  | .timecodeFrame f => Sys2Proof.Machine.execTimecodeFrame f s
  | .lossTimer => Sys2Proof.Machine.execLossTimer s
  | .freewheelDeadline => Sys2Proof.Machine.execFreewheelDeadline s
  | .identificationTimer h => Sys2Proof.Machine.execIdentificationTimer h s
  | .strikeTimer h => Sys2Proof.Machine.execStrikeTimer h s
  | .coolingTimer h => Sys2Proof.Machine.execCoolingTimer h s
  | .deadline h => Sys2Proof.Machine.execDeadline h s
  | .latchDeadline k => Sys2Proof.Machine.execLatchDeadline k s
  | .refreshDue l => Sys2Proof.Machine.execRefreshDue l s
  | .pollPeriodElapsed l => Sys2Proof.Machine.execPollPeriodElapsed l s
  | .lineQuiet l => Sys2Proof.Machine.execLineQuiet l s
  | .backoffExpiry l => Sys2Proof.Machine.execBackoffExpiry l s
  | .jamHoldExpiry l => Sys2Proof.Machine.execJamHoldExpiry l s
  | .collision l => Sys2Proof.Machine.execCollision l s
  | .lookComplete l => Sys2Proof.Machine.execLookComplete l s
  | .latchComplete l => Sys2Proof.Machine.execLatchComplete l s
  | .attemptSent l => Sys2Proof.Machine.execAttemptSent l s
  | .replyWindowClose l => Sys2Proof.Machine.execReplyWindowClose l s
  | .accept l f => Sys2Proof.Machine.execAccept l f s
  | .refuse l f => Sys2Proof.Machine.execRefuse l f s
  | .status l f => Sys2Proof.Machine.execStatus l f s
  | .descriptor l f => Sys2Proof.Machine.execDescriptor l f s
  | .badReply l f => Sys2Proof.Machine.execBadReply l f s
  | .strayFrame l f => Sys2Proof.Machine.execStrayFrame l f s

end Sys2Proof.Machine
end

