-- ==== Sys2Proof/Safety.lean ====
section
/-! DEFINITION. The words the statements are made of: which record row takes which body, the ranges the spec gives the
fields of records, what it means that a read is asked for, and the invariants that every step keeps. -/

namespace Sys2Proof.Machine

/-- The record row that takes a body (R163); a CLOCK record of no known command is taken by any CLOCK row (log 6). -/
def takesBody : Instr → RecordBody → Bool
  | .cue, .cue _ => true
  | .cancel, .cancel _ => true
  | .release, .release _ => true
  | .patch, .patch _ => true
  | .unpatch, .unpatch _ => true
  | .clearHead, .clearHead _ => true
  | .profile, .profile x => !x.remove
  | .profileRemove, .profile x => x.remove
  | .sector, .sector x => !x.remove
  | .sectorRemove, .sector x => x.remove
  | .line, .line _ => true
  | .clockInternal, .clock x => x.command == 1 || x.unknown
  | .clockHalt, .clock x => x.command == 2 || x.unknown
  | .clockChase, .clock x => x.command == 3 || x.unknown
  | .unknownKindRecord, .unknown => true
  | _, _ => false

/-- The Chain Reader has asked for a read: it waits for the bus or is on it. -/
def State.reads (s : State) (op : ReadOp) : Prop :=
  s.bus.readerReq = some op ∨ ∃ expiry, s.bus.outstanding = some ⟨.read op, expiry, false⟩

/-- A read is on the bus and has not been given up. -/
def State.reading (s : State) (op : ReadOp) : Prop := ∃ expiry, s.bus.outstanding = some ⟨.read op, expiry, false⟩

/-- The record a row is about to take is held, with room for its taking (R163). -/
def State.readyToTake (s : State) (r : Record) : Prop :=
  s.chain.holding = some r ∧ s.chain.scan.isSome = true ∧ Config.takingPlaces ≤ s.wb.free

/-! ### Ranges of record fields -/

/-- A pan within its range (3.1, 8.2). -/
def panInRange (a : Int) : Prop := -27000 ≤ a ∧ a ≤ 27000

/-- A tilt within its range (3.1, 8.2). -/
def tiltInRange (a : Int) : Prop := -13500 ≤ a ∧ a ≤ 13500

/-- There are 1 to 8 head ranges, and each of those counted is in order and within the table (R31, R46). -/
def rangesGood (count : Nat) (ranges : List (Nat × Nat)) : Prop :=
  1 ≤ count ∧ count ≤ 8 ∧ ∀ x ∈ ranges.take count, x.1 ≤ x.2 ∧ x.2 ≤ 511

/-- The fields of a PROFILE record but for the slot number (1.2, R3). -/
def ProfileRec.inRange (x : ProfileRec) : Prop :=
  let cs := x.components.take x.count
  panInRange x.panMin ∧ panInRange x.panMax ∧ x.panMin < x.panMax ∧
  tiltInRange x.tiltMin ∧ tiltInRange x.tiltMax ∧ x.tiltMin < x.tiltMax ∧
  1 ≤ x.panSpeed ∧ x.panSpeed ≤ 720 ∧ 1 ≤ x.tiltSpeed ∧ x.tiltSpeed ≤ 720 ∧
  (x.lampKind = 0 ∨ (x.lampKind = 1 ∧ 1 ≤ x.strike ∧ x.strike ≤ 60 ∧ x.cooling ≤ 900)) ∧
  1 ≤ x.count ∧ x.count ≤ 6 ∧ (cs.map Prod.fst).Nodup ∧
  ∀ c ∈ cs, c.1 < x.count ∧ (c.2.1 = 8 ∨ c.2.1 = 16) ∧ c.2.2 ≤ 16

/-- The fields of a SECTOR record but for the slot number (R46); policy 1 is DETOUR. -/
def SectorRec.inRange (x : SectorRec) : Prop :=
  panInRange x.panMin ∧ panInRange x.panMax ∧ x.panMin ≤ x.panMax ∧
  tiltInRange x.tiltMin ∧ tiltInRange x.tiltMax ∧ x.tiltMin ≤ x.tiltMax ∧ x.policy ≤ 2 ∧
  (x.policy = 1 → panInRange x.wayPan ∧ tiltInRange x.wayTilt ∧
    ¬(x.panMin ≤ x.wayPan ∧ x.wayPan ≤ x.panMax ∧ x.tiltMin ≤ x.wayTilt ∧ x.wayTilt ≤ x.tiltMax)) ∧
  rangesGood x.count x.ranges

/-- The fields of a RELEASE record (R31); layer 1 is LIVE. -/
def ReleaseRec.inRange (x : ReleaseRec) : Prop :=
  x.layer = 1 ∧ (x.position = true ∨ x.colour = true ∨ x.beam = true) ∧ rangesGood x.count x.ranges ∧ x.fade ≤ 60000

/-- A head entry of a CUE record (R140). -/
def EntryRec.inRange (e : EntryRec) : Prop :=
  e.head ≤ 511 ∧ (e.position = true ∨ e.colour = true ∨ e.beam = true ∨ e.lamp ≠ 0) ∧ e.lamp ≤ 2 ∧
  (e.position = true → panInRange e.pan ∧ tiltInRange e.tilt ∧ e.moveTime ≤ 60000) ∧
  (e.colour = true → e.colourCount ≤ 6 ∧ e.colourFade ≤ 60000) ∧ (e.beam = true → e.beamFade ≤ 60000)

/-- The fields of a CUE record (R140); no two entries name one head. -/
def CueRec.inRange (c : CueRec) : Prop :=
  c.layer ≤ 1 ∧ (c.goPresent = true → c.goTime ≤ 86399999) ∧ c.skip ≤ 1 ∧
  (c.together = true → c.latchWait = 0 ∨ (10 ≤ c.latchWait ∧ c.latchWait ≤ 1000)) ∧
  1 ≤ c.count ∧ c.count ≤ 64 ∧ (∀ e ∈ c.entries, e.inRange) ∧ (c.entries.map EntryRec.head).Nodup

/-- What the pool keeps of a well-formed head entry (R23, R139, R140): the groups it carries, six target components of
which those beyond its count are 0, and its lamp request. -/
def EntryRec.keptAs (e : EntryRec) (w : Entry) : Prop :=
  w.head.val = e.head ∧
  w.position = (if e.position then some ⟨⟨e.pan, e.tilt⟩, e.moveTime⟩ else none) ∧
  w.colour.map EntryCol.count = (if e.colour then some e.colourCount else none) ∧
  w.colour.map EntryCol.fade = (if e.colour then some e.colourFade else none) ∧
  (∀ q (k : Fin 6), w.colour = some q → q.target.get k = if k.val < e.colourCount then e.values.get k else 0) ∧
  w.beam = (if e.beam then some ⟨e.intensity, e.beamFade⟩ else none) ∧
  w.lamp = (if e.lamp = 1 then .strike else if e.lamp = 2 then .douse else .none)

/-! ### What an event leaves -/

/-- A move but for how far its AIM has got: its state, the sequences of its legs, its attempts. -/
def Move.plain (m : Move) : Move :=
  { m with
    state := .planned
    leg1 := { m.leg1 with seq := none }
    leg2 := m.leg2.map fun g => { g with seq := none }
    attempts := 0 }

/-- A head left alone, but for what a frame begun for it at the end of an event may change: its next AIM sequence, how far
the AIM of its move has got, transitions that have run. -/
def Head.framesOnly (x y : Head) : Prop :=
  y = { x with nextAim := y.nextAim, move := y.move, colRelease := y.colRelease, beamRelease := y.beamRelease } ∧
    y.move.map Move.plain = x.move.map Move.plain

/-- A line left alone, but for what a choice made and a frame begun on it may change. -/
def Line.framesOnly (x y : Line) : Prop :=
  y = { x with
    queue := y.queue, owed := y.owed, overflow := y.overflow, work := y.work, lastPoll := y.lastPoll,
    framesSincePoll := y.framesSincePoll, commandsSinceLook := y.commandsSinceLook, pollPos := y.pollPos, seq := y.seq,
    afterDark := y.afterDark, latchSpent := y.latchSpent }

/-- The profiles, the sectors and the membership lists stay. -/
def Rig.tablesKept (r r' : Rig) : Prop :=
  r'.profiles = r.profiles ∧ r'.sectors = r.sectors ∧ r'.members = r.members

/-- Every head but those a test names is left alone. -/
def Rig.headsKept (r r' : Rig) (but : HeadIx → Prop) : Prop :=
  ∀ h, ¬but h → Head.framesOnly (r.heads.get h) (r'.heads.get h)

/-- Every line but those a test names is left alone. -/
def Rig.linesKept (r r' : Rig) (but : LineIx → Prop) : Prop :=
  ∀ l, ¬but l → Line.framesOnly (r.lines.get l) (r'.lines.get l)

/-- No TOGETHER cue is gathering (R82), so that no LATCH comes about by a move's ending. -/
def Rig.noGathering (r : Rig) : Prop :=
  ∀ k y, r.slots.get k = some y → y.gathering.state ≠ .gathering

/-- The fixture side is left alone, but for frames begun. -/
def Rig.kept (r r' : Rig) : Prop :=
  r.tablesKept r' ∧ r'.slots = r.slots ∧ r.headsKept r' (fun _ => False) ∧ r.linesKept r' (fun _ => False)

/-- Time, the waiting commands, the last written states and the access held for retry stay; updates listed keep their
places. -/
def State.baseKept (s t : State) : Prop :=
  t.pending = s.pending ∧ t.micros = s.micros ∧ t.wb.lastHead = s.wb.lastHead ∧ t.wb.lastLine = s.wb.lastLine ∧
    t.bus.held = s.bus.held ∧ s.wb.list <+: t.wb.list

/-- The clock and the pending cues stay. -/
def State.showKept (s t : State) : Prop := t.clock = s.clock ∧ t.cues = s.cues

/-- The samples handed over stay. -/
def State.samplesKept (s t : State) : Prop := t.wb.waiting = s.wb.waiting ∧ t.wb.later = s.wb.later

/-- The registers stay, but for the attention latch. -/
def State.windowKept (s t : State) : Prop := t.regs = { s.regs with latch := t.regs.latch }

/-- All that stands beside the fixture side stays. -/
def State.outsideKept (s t : State) : Prop :=
  s.baseKept t ∧ s.showKept t ∧ s.samplesKept t ∧ t.regs = s.regs ∧ t.chain = s.chain

/-- A record has been taken with an answer (R163, R164): its update is the next one listed, it is the follow record and
counted, and no other is held. -/
def State.takenWith (s t : State) (r : Record) (a : Answer) : Prop :=
  (s.wb.list ++ [a.update r]) <+: t.wb.list ∧ t.chain.follow = some r.head.offset ∧
    t.chain.takenCount = s.chain.takenCount + 1 ∧ t.chain.holding = none ∧ t.chain.waitingCount = 0 ∧
    t.chain.engine = s.chain.engine ∧ t.chain.region = s.chain.region ∧ s.baseKept t ∧ s.windowKept t

/-- A scan has ended: the scan timer runs for the period in force (R160). -/
def State.scanEnded (s t : State) : Prop :=
  t.chain.scan = none ∧ t.chain.holding = none ∧ t.chain.scanTimer = some (s.micros + s.regs.scanPeriod) ∧
    t.chain.engine = s.chain.engine ∧ t.chain.follow = s.chain.follow ∧ t.chain.takenCount = s.chain.takenCount

/-- A mirror entry is to be written, or its write has just been issued (R170). -/
def State.markedOrIssued (t : State) (e : MirrorIx) : Prop :=
  t.rig.marks.get e = true ∨ ∃ c bytes x, t.bus.outstanding = some ⟨.mirror e c bytes, x, false⟩

/-- Two cues are alike but for the note that CAPACITY has been latched for it. -/
def Cue.unnoted (c : Cue) : Cue := { c with noted := false }

/-- The pending cues with the skip mark that a jump of show time sets (R147): on those whose go-time it passed over. -/
def skipMarked (before after : Nat) (cs : List Cue) : List Cue :=
  cs.map fun c => if before < c.goTime ∧ c.goTime < after then { c with skip := true } else c

/-- The point a head aims at for a point given (R5): an axis that its mount sign holds counts as 0. -/
def Binding.heldPoint (b : Binding) (p : Point) : Point :=
  ⟨if b.panSign = .held then 0 else p.pan, if b.tiltSign = .held then 0 else p.tilt⟩

/-- The hull a planning reads (R61): the head's, and the target of an AIM that may have reached it. -/
def Head.hullFor (h : Head) (target : Point) : Box :=
  let hull := match h.hull with | some x => x | none => target.box
  match h.move with
  | some m => if m.state = .onWire ∨ m.state = .staged then hull.cover m.leg.target.box else hull
  | none => hull

/-- A move handed to the planner has come about on a head (R66, R79, R82) from a plan's legs, or has been refused (R65):
how the head was, how it is, what was planned, the slot of the cue and its tag (none for a catch-up), and whether the
move is to be staged. -/
def Head.planned (u v : Head) (pl : Plan) (cue : Option (SlotIx × Tag)) (staged : Bool) : Prop :=
  (∀ reason, pl = .refused reason →
    v.lastRefused = reason ∧ v.move.map Move.plain = u.move.map Move.plain ∧ v.lastOutcome = u.lastOutcome ∧
      v.lastCueTag = u.lastCueTag ∧ v.guard.transit = u.guard.transit ∧ v.hull = u.hull ∧ v.settled = u.settled) ∧
  ∀ leg1 leg2 dark, pl = .legs leg1 leg2 dark →
    let risky := ∃ m, u.move = some m ∧ (m.state = .onWire ∨ m.state = .staged)
    (∃ m, v.move = some m ∧ m.plain = ({
      state := .planned, leg1 := leg1, leg2 := leg2, current := .first, darken := dark, darkSent := false
      staged := staged, latch := if staged then cue.map Prod.fst else none, cue := cue.map Prod.fst
      travel := none, deadline := none, attempts := 0 } : Move).plain) ∧
    v.guard.transit = (u.guard.transit || dark) ∧
    v.lastCueTag = (match cue with | some c => some c.2 | none => u.lastCueTag) ∧
    v.lastOutcome = (if u.move.isSome then some .overtaken else u.lastOutcome) ∧ v.lastRefused = u.lastRefused ∧
    v.accepted = u.accepted ∧ (risky → v.settled = false) ∧ (¬risky → v.settled = u.settled ∧ v.hull = u.hull) ∧
    ∀ m, u.move = some m → m.state = .onWire ∨ m.state = .staged →
      v.hull = some (match u.hull with | some x => x.cover m.leg.target.box | none => m.leg.target.box)

/-- The 32 bytes of a head mirror entry with a stamp, field by field (11.5, R173). -/
def Head.writtenAs (u : Head) (stamp : BitVec 16) (b : List Byte) : Prop :=
  b.length = 32 ∧ rd16 b 0x00 = stamp.toNat ∧ rd8 b 0x02 = u.avail.code ∧ rd8 b 0x03 = u.lamp.code ∧
  rd8 b 0x04 = (match u.binding with | some x => x.line.val | none => 0) ∧
  rd8 b 0x05 = (match u.binding with | some x => x.address.val + 1 | none => 0) ∧
  rd8 b 0x06 = (match u.binding with | some x => x.profile.val | none => 0) ∧
  rdBit b 0x07 0 = u.settled ∧ rdBit b 0x07 1 = u.binding.isSome ∧ rdBit b 0x07 2 = u.accepted.isSome ∧
  rdBit b 0x07 3 = (u.accepted.bind Accepted.seq).isSome ∧ rdBit b 0x07 4 = u.lastCueTag.isSome ∧
  rdBit b 0x07 5 = u.missTotal.overflow ∧
  rdBit b 0x08 0 = u.guard.transit ∧ rdBit b 0x08 1 = u.guard.parked ∧ rdBit b 0x08 2 = u.guard.blackout ∧
  rdBit b 0x08 3 = u.guard.fault ∧
  rd8 b 0x09 = outcomeCode u.lastOutcome ∧ rd8 b 0x0A = u.lastRefused.code ∧ rd8 b 0x0B = u.faultCause.code ∧
  rd8 b 0x0C = u.missTotal.count % 256 ∧
  rd8 b 0x0D = (match u.accepted.bind Accepted.seq with | some q => q.toNat | none => 0) ∧
  (rd32 b 0x10 : Int) = (match u.accepted with | some a => a.point.pan % 2 ^ 32 | none => 0) ∧
  (rd32 b 0x14 : Int) = (match u.accepted with | some a => a.point.tilt % 2 ^ 32 | none => 0) ∧
  rd32 b 0x18 = (match u.lastCueTag with | some g => g.toNat | none => 0)

/-- The 32 bytes of a line mirror entry with a stamp, field by field (11.5, R173). -/
def Line.writtenAs (x : Line) (stamp : BitVec 16) (b : List Byte) : Prop :=
  b.length = 32 ∧ rd16 b 0x00 = stamp.toNat ∧ rd8 b 0x02 = x.state.code ∧ rdFlag b 0x03 = x.echo ∧
  rd16 b 0x04 = x.refresh % 65536 ∧ rd16 b 0x06 = x.poll % 65536 ∧ rd8 b 0x08 = x.collisions.count % 256 ∧
  rd8 b 0x09 = x.misses.count % 256 ∧ rd8 b 0x0A = x.checkErrors.count % 256 ∧
  rdBit b 0x0B 0 = x.collisions.overflow ∧ rdBit b 0x0B 1 = x.misses.overflow ∧
  rdBit b 0x0B 2 = x.checkErrors.overflow

/-- What waits to fill free places of a line's queue, in order (R95): the latch overflow, oldest first, then the owed
marks by ascending address, and of one head MOTION, LAMP, SERVICE. -/
def Line.waiting (x : Line) : List Command :=
  x.overflow.map Command.latch ++ (List.finRange 32).flatMap fun a =>
    match x.addrMap.get a with
    | none => []
    | some h =>
      let o := x.owed.get a
      (if o.motion then [Command.aim h] else []) ++ (match o.lamp with | some c => [Command.lamp h c] | none => []) ++
        (match o.service with | some c => [Command.service h c] | none => [])

/-- A line's queue and owed marks after a request for the head at an address, of a class, in the four cases of R92. -/
def Line.requested (x y : Line) (a : AddrIx) (h : HeadIx) (k : Class) (c : Command) : Prop :=
  let here := ∃ d ∈ x.queue, d.key = some (h, k)
  (x.state.inService = false → y.queue = x.queue ∧ y.owed = x.owed) ∧
  (x.state.inService = true → here →
    y.queue = x.queue.map (fun d => if d.key = some (h, k) then c else d) ∧ y.owed = x.owed) ∧
  (x.state.inService = true → ¬here → (x.owed.get a).has k = true ∨ 48 ≤ x.queue.length →
    y.queue = x.queue ∧ y.owed = upd x.owed a ((x.owed.get a).set c)) ∧
  (x.state.inService = true → ¬here → (x.owed.get a).has k = false → x.queue.length < 48 →
    y.queue = x.queue ++ [c] ∧ y.owed = x.owed)

/-- A line's queue and latch overflow after a LATCH request, in the cases of R94 that keep it. -/
def Line.latchRequested (x y : Line) (n : SlotIx) : Prop :=
  let there := Command.latch n ∈ x.queue ∨ n ∈ x.overflow ∨ ∃ f, x.work = .latch n none f
  (x.state.inService = false ∨ there → y.queue = x.queue ∧ y.overflow = x.overflow) ∧
  (x.state.inService = true → ¬there → x.queue.length < 48 →
    y.queue = x.queue ++ [.latch n] ∧ y.overflow = x.overflow) ∧
  (x.state.inService = true → ¬there → 48 ≤ x.queue.length → x.overflow.length < 4 →
    y.queue = x.queue ∧ y.overflow = x.overflow ++ [n])

/-- The line can begin nothing at the end of an event, whatever becomes of its work: it is not RUNNING or not quiet. -/
def Line.still (x : Line) : Prop := x.state ≠ .running ∨ x.quietAt ≠ none

/-- The line will choose and begin nothing at the end of an event: it is not RUNNING, not quiet, or at work. -/
def Line.occupied (x : Line) : Prop := x.state ≠ .running ∨ x.quietAt ≠ none ∨ x.work ≠ .idle

/-- No line but one will begin a frame: each is not RUNNING or not quiet. -/
def State.othersStill (s : State) (l : LineIx) : Prop :=
  ∀ m, m ≠ l → (s.rig.lines.get m).state ≠ .running ∨ (s.rig.lines.get m).quietAt ≠ none

/-- The cue list is waiting: no cue that is due, none that is to be passed over (R143, R148). -/
def State.cuesStill (s : State) : Prop :=
  s.clock.state.firing = false ∧ ∀ c ∈ s.cues, c.dropped = false

/-! ### Refresh due times (R29, R97) -/

/-- The head takes LOOK frames (section 1.4). -/
def Head.lit (h : Head) : Prop := h.avail = .active ∨ h.avail = .fault

/-- The guard-reason set became empty or stopped being empty (R29). -/
def Head.guardTurned (u v : Head) : Prop := ¬(u.guard = Guard.none ↔ v.guard = Guard.none)

/-- After an event that changes the look of some heads that take LOOK frames (R29), each one's refresh due time is the
earlier of itself and now, and every other due time is as it was (R97). -/
def Rig.looksChanged (r r' : Rig) (now : Nat) (changed : HeadIx → Prop) : Prop :=
  ∀ l a,
    let here := ∃ h b, (r.heads.get h).binding = some b ∧ b.line = l ∧ b.address = a ∧ changed h
    (here → (r'.lines.get l).refreshDue.get a = ((r.lines.get l).refreshDue.get a).map (min now)) ∧
    (¬here → (r'.lines.get l).refreshDue.get a = (r.lines.get l).refreshDue.get a)

/-- The guard-reason set was empty within an event: TRANSIT was all of it and was removed (R68), whatever came in after
(R16, R56). -/
def Head.emptied (u v : Head) : Prop := u.guard = { Guard.none with transit := true } ∧ v.guard.transit = false

/-- A head's refresh due time after an event that concerns it alone (R97): now when it begins to take LOOK frames, absent
when it stops, the earlier of itself and now at a look change (R29), and otherwise as it was, as are all others. `cells`
says that the event changed the look otherwise than from its beginning to its end: by its cells, or by a guard-reason set
that was empty in between. -/
def Rig.dueFollows (r r' : Rig) (now : Nat) (h : HeadIx) (cells : Prop) : Prop :=
  let u := r.heads.get h
  let v := r'.heads.get h
  (∀ b, u.binding = some b →
    let was := (r.lines.get b.line).refreshDue.get b.address
    let due := (r'.lines.get b.line).refreshDue.get b.address
    (u.lit → v.lit → cells ∨ u.guardTurned v → due = was.map (min now)) ∧
    (u.lit → v.lit → ¬cells → ¬u.guardTurned v → due = was) ∧
    (¬u.lit → v.lit → due = some now) ∧
    (u.lit → ¬v.lit → due = none) ∧
    (¬u.lit → ¬v.lit → due = was)) ∧
  ∀ l a, (∀ b, u.binding = some b → b.line = l → b.address ≠ a) →
    (r'.lines.get l).refreshDue.get a = (r.lines.get l).refreshDue.get a

/-! ### How moves end, and lines go and come -/

/-- The move a head held, if it held one, has ended, and its cue's slot has counted it (R146), retiring when nothing else
is outstanding (R149); every other slot stays. -/
def Rig.moveCounted (r r' : Rig) (h : HeadIx) (count : Counts → Counts) : Prop :=
  ∀ k y, r.slots.get k = some y →
    ((∀ m, (r.heads.get h).move = some m → m.cue ≠ some k) → r'.slots.get k = some y) ∧
    ∀ m, (r.heads.get h).move = some m → m.cue = some k →
      ∃ z, r'.slots.get k = some z ∧ z.outstanding = y.outstanding - 1 ∧ z.counts = count y.counts ∧
        (z.retired = true ↔ y.retired = true ∨ (y.applied = true ∧ y.outstanding - 1 = 0))

/-- One more FAILED (R146). -/
def Counts.oneFailed (c : Counts) : Counts := { c with failed := c.failed + 1 }

/-- One more REFUSED (R146). -/
def Counts.oneRefused (c : Counts) : Counts := { c with refused := c.refused + 1 }

/-- One more REACHED (R146). -/
def Counts.oneReached (c : Counts) : Counts := { c with reached := c.reached + 1 }

/-- A line's heads have gone OFFLINE with it (R20, R90, R108): each one's move ended LINE_DOWN, counted FAILED for its cue
(R80, R146, R149), its refresh due time absent (R97); what else the head holds is kept, but for a miss total that a counter
reset made 0 (R91). -/
def Rig.outOfService (r r' : Rig) (l : LineIx) (zeroed : Bool) : Prop :=
  let x := r.lines.get l
  let bound (i : HeadIx) : Bool := (List.finRange 32).any fun a => x.addrMap.get a == some i
  (∀ a i, x.addrMap.get a = some i → (∀ m a', (r.lines.get m).addrMap.get a' = some i → m = l) →
    let u := r.heads.get i
    Head.framesOnly { u with
      avail := .offline, guard := { u.guard with fault := false }, identTimer := none, missRun := 0
      missTotal := if zeroed then ⟨0, false⟩ else u.missTotal
      move := none, lastOutcome := if u.move.isSome then some .lineDown else u.lastOutcome } (r'.heads.get i)) ∧
  (∀ a i b, x.addrMap.get a = some i → (r.heads.get i).lit → (r.heads.get i).binding = some b →
    (r'.lines.get b.line).refreshDue.get b.address = none) ∧
  (r.noGathering →
    (∀ i, bound i = false → Head.framesOnly (r.heads.get i) (r'.heads.get i)) ∧
    ∀ k y, r.slots.get k = some y →
      let n := ((List.finRange 512).filter fun i => bound i && (r.heads.get i).move.bind Move.cue == some k).length
      ∃ z, r'.slots.get k = some z ∧
        z = { y with
          outstanding := y.outstanding - n, counts := { y.counts with failed := y.counts.failed + n }
          retired := z.retired } ∧
        (z.retired = true ↔ y.retired = true ∨ (0 < n ∧ y.applied = true ∧ y.outstanding - n = 0)))

/-- The commands queued on a line when it comes back into service (R21): an IDENT of each of its heads, in ascending
address order. -/
def Line.identsInOrder (x : Line) : List Command :=
  (List.finRange 32).filterMap fun a => (x.addrMap.get a).map fun i => .service i .ident

/-- A line is back in service (R21, R90, R109): its heads are in IDENTIFYING, and an IDENT of each has been requested in
ascending address order (R9); the first of them goes out at once when the line is quiet and without work. -/
def State.backInService (s t : State) (l : LineIx) (zeroed : Bool) : Prop :=
  let x := s.rig.lines.get l
  let y := t.rig.lines.get l
  y.state = .running ∧ y.timer = none ∧ y.lastPoll = s.now ∧ y.framesSincePoll = 0 ∧
  ((∀ e, x.work = .exchange e → e.phase ≠ .retransmit) → y.pollPos.val + 1 = 32) ∧
  (∀ a i, x.addrMap.get a = some i →
    Head.framesOnly { s.rig.heads.get i with
      avail := .identifying, identTimer := none
      missTotal := if zeroed then ⟨0, false⟩ else (s.rig.heads.get i).missTotal } (t.rig.heads.get i)) ∧
  (x.queue = [] → x.overflow = [] → (∀ a, x.owed.get a = Owed.none ∧ x.refreshDue.get a = none) →
    (∀ i b, (s.rig.heads.get i).binding = some b → b.line = l → x.addrMap.get b.address = some i) →
    (∀ a i, x.addrMap.get a = some i →
      ∃ b, (s.rig.heads.get i).binding = some b ∧ b.line = l ∧ b.address = a) →
    (∀ a, y.owed.get a = Owed.none) ∧
    (x.quietAt ≠ none ∨ x.work ≠ .idle → y.queue = x.identsInOrder) ∧
    (x.quietAt = none → x.work = .idle → y.queue = x.identsInOrder.drop 1 ∧
      ∀ a i, x.addrMap.get a = some i → (∀ a', a' < a → x.addrMap.get a' = none) →
        y.work = .exchange ⟨.ident, i, a, x.seq, none, plainFrame a .ident x.seq, 1, .transmitting y.echo, false,
          false⟩ ∧ y.seq = x.seq + 1))

/-- A slot has left RUNNING (R87, R96): no LATCH of its number is queued on a line, in overflow or held for resending; one
on the wire completes, and no collision makes it a held one. -/
def Rig.latchGone (r r' : Rig) (l : LineIx) (k : SlotIx) : Prop :=
  let x := r.lines.get l
  let y := r'.lines.get l
  Command.latch k ∉ y.queue ∧ k ∉ y.overflow ∧ (∀ f, y.work ≠ .latch k none f) ∧
  (∀ c f, x.work = .latch k (some c) f → y.work = .latch k (some c) f ∧ y.latchSpent = true) ∧
  ((∀ c f, x.work ≠ .latch k (some c) f) → ∀ c f, y.work ≠ .latch k (some c) f)

/-! ### Attempts without a reply that ends them -/

/-- A reply to an exchange whose head was unpatched, which stopped it, has been received (R104, R106): it is delivered to no
head, and the exchange is over. -/
def State.answeredToNone (s t : State) (l : LineIx) : Prop :=
  s.rig.headsKept t.rig (fun _ => False) ∧ t.rig.slots = s.rig.slots ∧ s.rig.linesKept t.rig (fun m => m = l) ∧
  t.rig.lines.get l = { s.rig.lines.get l with quietAt := some (s.micros + 40), work := .idle }

/-- A head's current move is ON_WIRE with the AIM an exchange sent (R69). -/
def Head.awaits (h : Head) (e : Exchange) : Prop :=
  e.kind = .aim ∧ ∃ a, e.aim = some a ∧ ∃ m, h.move = some m ∧ m.state = .onWire ∧ m.leg.seq = some a.seq

/-- The AIM of the current move has had its attempts (R73): the move ends FAILED and is counted so, the head may or may
not be at the target. -/
def Rig.aimGivenUp (r r' : Rig) (e : Exchange) : Prop :=
  let u := r.heads.get e.head
  let v := r'.heads.get e.head
  (∀ a, e.aim = some a →
    v.move = none ∧ v.lastOutcome = some .failed ∧ v.settled = false ∧ v.accepted = u.accepted ∧
    v.guard = u.guard ∧
    v.hull = some (match u.hull with | some b => b.cover a.target.box | none => a.target.box)) ∧
  (r.noGathering → r.moveCounted r' e.head Counts.oneFailed)

/-- An attempt of an exchange has ended with no reply or a bad one (R102): the head, unless it was unpatched, counts a
miss, and is LOST at the sixth in a row (R13, R14); while attempts are left and nothing has stopped the exchange (R104),
the next begins or waits for quiet, which is the work `again` (R103); and otherwise the exchange is over, an AIM's move
ending FAILED (R73) and an IDENT setting the identification timer (R9). Where `held` says that the line begins nothing
else at this event, what a loss leaves in its queue is said in full (R95). -/
def State.attemptMissed (s t : State) (l : LineIx) (e : Exchange) (again : Work) (held : Prop) : Prop :=
  let u := s.rig.heads.get e.head
  let v := t.rig.heads.get e.head
  let x := s.rig.lines.get l
  let y := t.rig.lines.get l
  let searched := u.avail = .identifying ∨ u.avail = .mismatch
  let lost := e.orphaned = false ∧ (searched ∨ u.avail = .active ∨ u.avail = .fault) ∧ 5 ≤ u.missRun
  let ended := e.stopped = true ∨ (if e.kind = .poll then 1 else 3) ≤ e.attempts
  let onWire := ∃ m, u.move = some m ∧ m.state = .onWire
  let timed := ¬lost ∧ ended ∧ e.stopped = false ∧ e.kind = .ident ∧ (searched ∨ u.avail = .lost)
  let gone (c : Command) : Bool := c == .aim e.head || c == .lamp e.head .strike || c == .lamp e.head .douse ||
    (u.avail == .fault && c == .service e.head .clear)
  y.misses = x.misses.bump ∧ y.collisions = x.collisions ∧
  v.missTotal = (if e.orphaned then u.missTotal else u.missTotal.bump) ∧
  (∀ j, j ≠ e.head → (t.rig.heads.get j).avail = (s.rig.heads.get j).avail ∧
    (t.rig.heads.get j).missTotal = (s.rig.heads.get j).missTotal) ∧
  s.rig.dueFollows t.rig s.now e.head False ∧
  (lost → v.avail = .lost ∧ v.identTimer = some (s.now + 1000) ∧ v.missRun = 6 ∧
    v.guard = { u.guard with fault := false } ∧ v.faultCause = u.faultCause ∧ v.accepted = u.accepted ∧
    v.settled = u.settled ∧ v.hull = u.hull ∧ v.lamp = u.lamp ∧ v.move = none ∧
    v.lastOutcome = (if u.move.isSome then some .lost else u.lastOutcome) ∧
    (s.rig.noGathering → s.rig.moveCounted t.rig e.head Counts.oneFailed) ∧
    (¬ended → ¬onWire → y.work = again) ∧
    ∀ b, u.binding = some b → (∀ a, (s.rig.lines.get b.line).addrMap.get a = some e.head ↔ a = b.address) →
      let o := (t.rig.lines.get b.line).owed.get b.address
      let left := x.queue.filter fun c => !gone c
      (∀ c ∈ (t.rig.lines.get b.line).queue, gone c = false) ∧ o.motion = false ∧ o.lamp = none ∧
      (u.avail = .fault → o.service ≠ some .clear) ∧
      (b.line = l → onWire → ∀ f, y.work = .exchange f → ¬(f.kind = .aim ∧ f.head = e.head)) ∧
      (b.line = l → u.move = none → held →
        y.queue = left ++ (x.waiting.filter fun c => !gone c).take (48 - left.length))) ∧
  (¬lost → v.avail = u.avail ∧
    (e.orphaned = false → v.missRun = if u.avail = .offline then u.missRun else min 6 (u.missRun + 1)) ∧
    (¬ended → y.work = again ∧ s.rig.headsKept t.rig (fun j => j = e.head) ∧ t.rig.slots = s.rig.slots) ∧
    (e.stopped = false → ended → u.awaits e → s.rig.aimGivenUp t.rig e) ∧
    (timed → v.identTimer = some (s.now + 1000)) ∧ (¬timed → v.identTimer = u.identTimer) ∧
    (¬ended ∨ e.stopped = true ∨ ¬u.awaits e → Head.framesOnly { u with
      missTotal := v.missTotal, missRun := v.missRun, identTimer := v.identTimer } v))

/-- A good reply has been received that its command's owner takes as a good reply alone (R12, R13, R69): the miss run is 0,
a LOST head is back in IDENTIFYING (R15), an IDENT without its DESCRIPTOR sets the identification timer (R9), and nothing
else becomes of the head. Where the reply `ends` the exchange the line is without work; elsewhere the attempt has failed
and is followed like a missed one (R103), though the line counts nothing. -/
def State.goodAlone (s t : State) (l : LineIx) (e : Exchange) (ends : Prop) : Prop :=
  let u := s.rig.heads.get e.head
  let v := t.rig.heads.get e.head
  let x := s.rig.lines.get l
  let y := t.rig.lines.get l
  let givenUp := ¬ends ∧ e.stopped = false ∧ 3 ≤ e.attempts ∧ u.awaits e
  let timed := e.kind = .ident ∧ (u.avail = .identifying ∨ u.avail = .mismatch)
  y.quietAt = some (s.micros + 40) ∧ y.mirrored = x.mirrored ∧ v.missRun = 0 ∧
  (ends → y.work = .idle) ∧
  (¬ends → e.stopped = false → e.attempts < 3 → y.work = .exchange { e with phase := .nextAttempt }) ∧
  (¬ends → e.stopped = true ∨ 3 ≤ e.attempts → y.work = .idle) ∧
  (¬givenUp → t.rig.slots = s.rig.slots ∧ s.rig.headsKept t.rig (fun j => j = e.head) ∧
    (u.avail = .lost →
      Head.framesOnly { u with missRun := 0, avail := .identifying, identTimer := none } v ∧
      ∀ b, u.binding = some b → b.line = l → x.requested y b.address e.head .service (.service e.head .ident)) ∧
    (u.avail ≠ .lost → timed →
      Head.framesOnly { u with missRun := 0, identTimer := some (s.now + 1000) } v) ∧
    (u.avail ≠ .lost → ¬timed → Head.framesOnly { u with missRun := 0 } v)) ∧
  (givenUp → u.avail = .active → s.rig.aimGivenUp t.rig e ∧ v.avail = .active)

/-! ### Invariants -/

/-- SCAN_PERIOD and show time lie in their ranges (R126, R154). -/
def State.settingsInRange (s : State) : Prop :=
  Config.scanPeriodMin ≤ s.regs.scanPeriod ∧ s.regs.scanPeriod ≤ Config.scanPeriodMax ∧
    s.clock.showTime ≤ Config.lastShowMs

/-- The pending cue list is ordered by go-time, no two of its cues carry one tag, and neither it nor the pool is
over-full (R138, R139). -/
def State.cuesInOrder (s : State) : Prop :=
  s.cues.Pairwise (fun a b => a.goTime ≤ b.goTime) ∧ (s.cues.map Cue.tag).Nodup ∧
    s.cues.length ≤ Config.pendingCues ∧ poolUsed s.cues ≤ Config.poolEntries

/-- The write-back list is not over-full (R168). -/
def State.listFits (s : State) : Prop := s.wb.list.length ≤ Config.writeBackPlaces

/-- The latch numbers of the LATCH commands in a queue. -/
def latchesIn (q : List Command) : List SlotIx :=
  q.filterMap fun c => match c with | .latch n => some n | _ => none

/-- The address maps and the bindings say the same: an entry names a head exactly when that head is bound there, and a
head is UNPATCHED exactly when it is bound nowhere (R2). -/
def Rig.mapsSound (r : Rig) : Prop :=
  (∀ l a h, (r.lines.get l).addrMap.get a = some h ↔
    ∃ b, (r.heads.get h).binding = some b ∧ b.line = l ∧ b.address = a) ∧
  ∀ h, (r.heads.get h).avail = .unpatched ↔ (r.heads.get h).binding = none

/-- Only an ACTIVE head holds a move (R59), and a bound head is OFFLINE exactly when its line is out of service (R20,
R21, R89). -/
def Rig.movesSound (r : Rig) : Prop :=
  (∀ h, (r.heads.get h).move.isSome = true → (r.heads.get h).avail = .active) ∧
  ∀ h b, (r.heads.get h).binding = some b →
    ((r.heads.get h).avail = .offline ↔ (r.lines.get b.line).state.inService = false)

/-- What R92 to R94 say of a line's commands: at most one of a class for a head, none of a class that is owed, one LATCH
of a number in the queue and the overflow together; an address without a head owes nothing; and commands are owed or in
overflow only while the queue is full. -/
def Line.commandsSound (x : Line) : Prop :=
  (x.queue.filterMap Command.key).Nodup ∧ (latchesIn x.queue ++ x.overflow).Nodup ∧
  (∀ a h k, x.addrMap.get a = some h → (x.owed.get a).has k = true → (h, k) ∉ x.queue.filterMap Command.key) ∧
  (∀ a, x.addrMap.get a = none → x.owed.get a = Owed.none) ∧
  ((∃ a, x.owed.get a ≠ Owed.none) ∨ x.overflow ≠ [] → Config.queuePlaces ≤ x.queue.length)

/-- The fixture side's tables agree (R2, R20, R59, R92 to R94). -/
def Rig.linesSound (r : Rig) : Prop :=
  r.mapsSound ∧ r.movesSound ∧ ∀ l, (r.lines.get l).commandsSound

/-- A head's membership list is the slots whose sector names it, in ascending order, at most 8 (R45). -/
def Rig.membersSound (r : Rig) : Prop :=
  ∀ h, (r.members.get h).Pairwise (fun a b => a < b) ∧ (r.members.get h).length ≤ 8 ∧
    ∀ k, k ∈ r.members.get h ↔ ∃ x, r.sectors.get k = some x ∧ named x.ranges h = true

/-- How many heads hold a move that refers to a slot. -/
def Rig.movesOf (r : Rig) (k : SlotIx) : Nat :=
  ((List.finRange 512).filter fun h => ((r.heads.get h).move.bind Move.cue) == some k).length

/-- The RETIRED slots whose final updates are listed. -/
def WriteBack.slotsListed (w : WriteBack) : List SlotIx := w.list.filterMap Update.slot

/-- A RUNNING slot counts the moves that refer to it, and no move refers to another slot (R142); the slots whose final
updates are listed or wait for a place are RETIRED, each once; a result or state write on the bus or held for retry is of
the update at the front of the list (R149, R150, R168, R169); and an access is held only in BUS_PAUSED, where none is on
the bus (R157, R166). -/
def State.slotsSound (s : State) : Prop :=
  (∀ k, match s.rig.slots.get k with
    | some x => if x.retired then s.rig.movesOf k = 0 else x.outstanding = s.rig.movesOf k
    | none => s.rig.movesOf k = 0) ∧
  (s.wb.slotsListed ++ s.rig.offered).Nodup ∧
  (∀ k ∈ s.wb.slotsListed ++ s.rig.offered, ∃ x, s.rig.slots.get k = some x ∧ x.retired = true) ∧
  (s.bus.held.isSome = true → s.chain.engine = .busPaused) ∧
  (s.chain.engine = .busPaused → s.bus.outstanding = none) ∧
  ∀ u, (∃ e g, s.bus.outstanding = some ⟨.result u, e, g⟩ ∨ s.bus.outstanding = some ⟨.state u, e, g⟩) ∨
      s.bus.held = some (.result u) ∨ s.bus.held = some (.state u) → s.wb.list.head? = some u

/-- No line's command queue or latch overflow is over-full (R92, R94). -/
def State.queuesFit (s : State) : Prop :=
  ∀ l : LineIx, (s.rig.lines.get l).queue.length ≤ Config.queuePlaces ∧
    (s.rig.lines.get l).overflow.length ≤ Config.overflowPlaces

end Sys2Proof.Machine
end

