-- ==== Sys2Proof/Certificates/Slice0/Obligations.lean ====
section
/-! DEFINITION. The statements for the provers. A statement about a command says that it answers a next state, what that
state holds, and what it leaves. -/

section Statements

open Sys2Proof Sys2Proof.Machine

/-! ### Reset -/

/-- The machine right after a card reset (R1, R2, R23, R38, R44, R45, R88, R126, R138, R142, R154, R158, R168 to
R176). -/
def Obligations.ResetState : Prop :=
  let s := State.reset
  s.pending = [] ∧ s.micros = 0 ∧
  s.regs.regionBase = 0 ∧ s.regs.regionSize = 0 ∧ s.regs.scanPeriod = 1000 ∧ s.regs.latch = Causes.empty ∧
  s.regs.mask = Causes.empty ∧ s.regs.blackout = false ∧ s.interruptLine = false ∧
  s.chain.engine = .idle ∧ s.chain.starting = false ∧ s.chain.outcome = .none ∧ s.chain.condition = .clear ∧
  s.chain.follow = none ∧ s.chain.takenCount = 0 ∧ s.chain.waitingCount = 0 ∧ s.chain.scanTimer = none ∧
  s.bus.outstanding = none ∧ s.bus.held = none ∧ s.wb.list = [] ∧ s.wb.sweep = 0 ∧ s.wb.waiting = none ∧
  s.wb.later = none ∧
  s.clock.state = .halted ∧ s.clock.showTime = 0 ∧ s.clock.rate = .fps25 ∧ s.clock.limit = 2000 ∧
  s.clock.threshold = 100 ∧ s.clock.lockRun = 0 ∧ s.clock.seekRuns = false ∧ s.cues = [] ∧
  (∀ h, s.rig.heads.get h = Head.unpatched ∧ s.rig.members.get h = [] ∧ s.wb.lastHead.get h = .unpatched) ∧
  (∀ l, (s.rig.lines.get l).state = .disabled ∧ (s.rig.lines.get l).echo = true ∧
    (s.rig.lines.get l).refresh = 25 ∧ (s.rig.lines.get l).poll = 20 ∧ (s.rig.lines.get l).queue = [] ∧
    (s.rig.lines.get l).overflow = [] ∧ (s.rig.lines.get l).work = .idle ∧ (s.rig.lines.get l).run = 0 ∧
    (s.rig.lines.get l).pollPos.val + 1 = 32 ∧ (s.rig.lines.get l).seq = 0 ∧ s.wb.lastLine.get l = .disabled ∧
    ∀ a, (s.rig.lines.get l).addrMap.get a = none) ∧
  (∀ k, s.rig.profiles.get k = none) ∧ (∀ k, s.rig.sectors.get k = none) ∧ (∀ k, s.rig.slots.get k = none) ∧
  ∀ e, s.rig.marks.get e = false ∧ s.wb.stamps.get e = 0

/-- CARD_RESET makes everything as right after reset, and SOFT_RESET too, but for four registers and engine time (R88,
R112, R154, R158). The queue of waiting commands is the model's own and stays (log 4); that a line remembers when the
last reply window a SOFT_RESET closed would have ended, and the wait for quiet, are the model's too (log 13, log 21). -/
def Obligations.Resets : Prop :=
  ∀ s : State, exec .cardReset s = .next { State.reset with pending := s.pending } ∧
    ∃ t, exec .softReset s = .next t ∧ t.pending = s.pending ∧ t.micros = s.micros ∧
      t.regs = { Registers.reset with
        regionBase := s.regs.regionBase
        regionSize := s.regs.regionSize
        scanPeriod := s.regs.scanPeriod
        mask := s.regs.mask } ∧
      t.chain = Chain.reset ∧ t.bus = Bus.reset ∧ t.wb = WriteBack.reset ∧ t.clock = Clock.reset ∧ t.cues = [] ∧
      t.rig = { Rig.reset with lines := t.rig.lines } ∧ t.interruptLine = false ∧
      ∀ l, let x := s.rig.lines.get l
        let y := t.rig.lines.get l
        y = { Line.reset with cutWindow := y.cutWindow, quietAt := y.quietAt } ∧
        y.quietAt = (if x.work.transmitting then some (s.micros + 40) else x.quietAt) ∧
        ((∀ e c, x.work = .exchange e → e.phase ≠ .window c) → y.cutWindow = x.cutWindow) ∧
        ∀ e c, x.work = .exchange e → e.phase = .window c →
          y.cutWindow = some (match x.cutWindow with | some d => max c d | none => c)

/-! ### Engine commands -/

/-- START in IDLE: refused for its base or its size, ignored while a start is in progress, and otherwise a header read
is asked for (R155, R156). -/
def Obligations.StartInIdle : Prop :=
  ∀ s : State, s.chain.engine = .idle →
    (s.chain.starting = true → exec .start s = .next s) ∧
    (s.chain.starting = false → s.regs.regionBase.toNat % 4096 ≠ 0 →
      exec .start s = .next { s with chain := { s.chain with outcome := .baseMisaligned } }) ∧
    (s.chain.starting = false → s.regs.regionBase.toNat % 4096 = 0 →
      (s.regs.regionSize.toNat < 65536 ∨ 268435456 < s.regs.regionSize.toNat ∨ s.regs.regionSize.toNat % 4096 ≠ 0 ∨
        2 ^ 64 < s.regs.regionBase.toNat + s.regs.regionSize.toNat) →
      exec .start s = .next { s with chain := { s.chain with outcome := .sizeInvalid } }) ∧
    (s.chain.starting = false → s.regs.regionBase.toNat % 4096 = 0 → 65536 ≤ s.regs.regionSize.toNat →
      s.regs.regionSize.toNat ≤ 268435456 → s.regs.regionSize.toNat % 4096 = 0 →
      s.regs.regionBase.toNat + s.regs.regionSize.toNat ≤ 2 ^ 64 →
      ∃ t, exec .start s = .next t ∧ t.chain = { s.chain with outcome := .pending, starting := true } ∧
        t.reads .header ∧ s.baseKept t ∧ s.showKept t ∧ s.samplesKept t ∧ t.regs = s.regs ∧ s.rig.kept t.rig)

/-- START out of IDLE: ignored in READING; from PAUSED, and from BUS_PAUSED with nothing held, a scan begins with its
link; from BUS_PAUSED with an access held that access is issued first (R155, R157, R167). That the scan a held read
belongs to counts its records from 0 again is the model's choice (log 9). -/
def Obligations.StartResumes : Prop :=
  ∀ s : State,
    (s.chain.engine = .reading → exec .start s = .next s) ∧
    (s.chain.engine = .paused ∨ (s.chain.engine = .busPaused ∧ s.bus.held = none) →
      ∃ t, exec .start s = .next t ∧
        t.chain = { s.chain with engine := .reading, scan := some 0, scanTimer := none } ∧
        t.reads (.link (s.chain.follow.getD 0)) ∧ s.baseKept t ∧ s.showKept t ∧ s.samplesKept t ∧ t.regs = s.regs ∧
        s.rig.kept t.rig) ∧
    (∀ a, s.chain.engine = .busPaused → s.bus.held = some a →
      ∃ t, exec .start s = .next t ∧
        t.chain = { s.chain with engine := .reading, scan := some 0, scanTimer := none } ∧
        t.bus.outstanding = some ⟨a, s.micros + 10000, false⟩ ∧ t.bus.held = none ∧
        (a.isRead = false → t.bus.readerReq = some (.link (s.chain.follow.getD 0))) ∧
        t.pending = s.pending ∧ t.micros = s.micros ∧ s.showKept t ∧ s.samplesKept t ∧ t.regs = s.regs ∧
        s.rig.kept t.rig ∧ s.wb.list <+: t.wb.list)

/-- PAUSE in READING: the scan ends with its record not taken, the outstanding read is given up, and a header sample
that shows PAUSED is handed over; in any other state it is ignored (R155, R157, R174). That a PAUSE which ends a scan hands
over this one sample, and none of the scan's end beside it, is the model's choice (log 34). -/
def Obligations.PauseTaken : Prop :=
  ∀ s : State,
    (s.chain.engine ≠ .reading → exec .pause s = .next s) ∧
    (s.chain.engine = .reading →
      ∃ t, exec .pause s = .next t ∧
        t.chain = { s.chain with
          engine := .paused, scan := none, scanTimer := none, holding := none
          waitedAt := t.chain.waitedAt
          lastSample := some ⟨s.chain.follow.getD 0, s.chain.takenCount, s.clock.showTime, s.clock.state, .paused⟩ } ∧
        t.bus.readerReq = none ∧
        (∀ op e g, s.bus.outstanding = some ⟨.read op, e, g⟩ → t.bus.outstanding = some ⟨.read op, e, true⟩) ∧
        (s.wb.waiting = none → t.wb.later = s.wb.later ∧ t.wb.waiting = some ⟨⟨s.chain.follow.getD 0,
          s.chain.takenCount, s.clock.showTime, s.clock.state, .paused⟩, s.wb.list.length⟩) ∧
        (s.wb.waiting ≠ none → t.wb.waiting = s.wb.waiting ∧ t.wb.later = some ⟨⟨s.chain.follow.getD 0,
          s.chain.takenCount, s.clock.showTime, s.clock.state, .paused⟩, s.wb.list.length⟩) ∧
        s.baseKept t ∧ s.showKept t ∧ t.regs = s.regs ∧ s.rig.kept t.rig)

/-- BLACKOUT puts BLACKOUT in the guard-reason set of every patched head, RESTORE takes it out of every head's, and a
command that finds the flag as it would leave it changes nothing; a refresh of each ACTIVE or FAULT head that goes dark or
may light again is due at once (R29, R36, R37, R97). -/
def Obligations.BlackoutAndRestore : Prop :=
  ∀ s : State,
    (s.regs.blackout = true → exec .blackout s = .next s) ∧
    (s.regs.blackout = false → exec .restore s = .next s) ∧
    (s.regs.blackout = false →
      ∃ t, exec .blackout s = .next t ∧ t.regs = { s.regs with blackout := true } ∧
        (∀ h, (s.rig.heads.get h).avail ≠ .unpatched →
          Head.framesOnly { s.rig.heads.get h with guard := { (s.rig.heads.get h).guard with blackout := true } }
            (t.rig.heads.get h)) ∧
        (∀ h, (s.rig.heads.get h).avail = .unpatched → Head.framesOnly (s.rig.heads.get h) (t.rig.heads.get h)) ∧
        (∀ l, Line.framesOnly { s.rig.lines.get l with refreshDue := (t.rig.lines.get l).refreshDue }
          (t.rig.lines.get l)) ∧
        s.rig.looksChanged t.rig s.now (fun h => (s.rig.heads.get h).lit ∧ (s.rig.heads.get h).guard = Guard.none) ∧
        s.baseKept t ∧ s.showKept t ∧ s.samplesKept t ∧ t.chain = s.chain ∧ s.rig.tablesKept t.rig ∧
        t.rig.slots = s.rig.slots) ∧
    (s.regs.blackout = true →
      ∃ t, exec .restore s = .next t ∧ t.regs = { s.regs with blackout := false } ∧
        (∀ h, Head.framesOnly
          { s.rig.heads.get h with guard := { (s.rig.heads.get h).guard with blackout := false } }
          (t.rig.heads.get h)) ∧
        (∀ l, Line.framesOnly { s.rig.lines.get l with refreshDue := (t.rig.lines.get l).refreshDue }
          (t.rig.lines.get l)) ∧
        s.rig.looksChanged t.rig s.now (fun h => (s.rig.heads.get h).lit ∧ (s.rig.heads.get h).guard =
          { Guard.none with blackout := true }) ∧
        s.baseKept t ∧ s.showKept t ∧ s.samplesKept t ∧ t.chain = s.chain ∧ s.rig.tablesKept t.rig ∧
        t.rig.slots = s.rig.slots)

/-! ### Registers -/

/-- REGION_BASE and REGION_SIZE take writes in IDLE with no start in progress and at no other time, SCAN_PERIOD takes
them clamped, and a write at another offset, of another width or of an unknown command code is ignored; a write of four
bytes to CONTROL is the command its bits 0 to 7 name, and one to the other offsets is that register's write (R154,
R155, R178). -/
def Obligations.SettingsWritten : Prop :=
  ∀ (s : State) (v : Word),
    (s.chain.engine = .idle ∧ s.chain.starting = false →
      (∃ t, exec (.regionBaseWrite .low v) s = .next t ∧
        t = { s with regs := { s.regs with regionBase := t.regs.regionBase } } ∧
        t.regs.regionBase.toNat = s.regs.regionBase.toNat / 2 ^ 32 * 2 ^ 32 + v.toNat) ∧
      (∃ t, exec (.regionBaseWrite .high v) s = .next t ∧
        t = { s with regs := { s.regs with regionBase := t.regs.regionBase } } ∧
        t.regs.regionBase.toNat = v.toNat * 2 ^ 32 + s.regs.regionBase.toNat % 2 ^ 32) ∧
      exec (.regionSizeWrite v) s = .next { s with regs := { s.regs with regionSize := v } }) ∧
    (¬(s.chain.engine = .idle ∧ s.chain.starting = false) →
      (∀ half, exec (.regionBaseWrite half v) s = .next s) ∧ exec (.regionSizeWrite v) s = .next s) ∧
    exec (.scanPeriodWrite v) s = .next { s with regs := { s.regs with
      scanPeriod := if v.toNat < 250 then 250 else if 20000 < v.toNat then 20000 else v.toNat } } ∧
    (∀ offset width,
      (width ≠ 4 ∨ (offset ≠ 0x00 ∧ offset ≠ 0x08 ∧ offset ≠ 0x0C ∧ offset ≠ 0x10 ∧ offset ≠ 0x14 ∧ offset ≠ 0x20) ∨
        (offset = 0x00 ∧ v.toNat % 256 ≠ 0x01 ∧ v.toNat % 256 ≠ 0x02 ∧ v.toNat % 256 ≠ 0x0F ∧
          v.toNat % 256 ≠ 0x10 ∧ v.toNat % 256 ≠ 0x11) →
        exec (.registerWriteOther offset width v) s = .next s)) ∧
    (v.toNat % 256 = 0x01 → exec (.registerWriteOther 0x00 4 v) s = exec .start s) ∧
    (v.toNat % 256 = 0x02 → exec (.registerWriteOther 0x00 4 v) s = exec .pause s) ∧
    (v.toNat % 256 = 0x0F → exec (.registerWriteOther 0x00 4 v) s = exec .softReset s) ∧
    (v.toNat % 256 = 0x10 → exec (.registerWriteOther 0x00 4 v) s = exec .blackout s) ∧
    (v.toNat % 256 = 0x11 → exec (.registerWriteOther 0x00 4 v) s = exec .restore s) ∧
    exec (.registerWriteOther 0x08 4 v) s = exec (.regionBaseWrite .low v) s ∧
    exec (.registerWriteOther 0x0C 4 v) s = exec (.regionBaseWrite .high v) s ∧
    exec (.registerWriteOther 0x10 4 v) s = exec (.regionSizeWrite v) s ∧
    exec (.registerWriteOther 0x14 4 v) s = exec (.scanPeriodWrite v) s ∧
    exec (.registerWriteOther 0x20 4 v) s = exec (.attentionMaskWrite v) s

/-- A read of ATTENTION_TAKE returns the latched causes and empties the latch; a write of ATTENTION_MASK replaces the
mask; the interrupt line follows (R175, R176). -/
def Obligations.AttentionCommands : Prop :=
  ∀ (s : State) (v : Word),
    (∃ t, exec .attentionTake s = .next t ∧
      t = { s with regs := { s.regs with latch := Causes.empty, lastTake := s.regs.latch.toWord } } ∧
      t.interruptLine = false) ∧
    (∃ t, exec (.attentionMaskWrite v) s = .next t ∧
      t = { s with regs := { s.regs with mask := ⟨v.getLsbD 0, v.getLsbD 1, v.getLsbD 2, v.getLsbD 3, v.getLsbD 4,
        v.getLsbD 5, v.getLsbD 6⟩ } } ∧
      (t.interruptLine = true ↔
        (t.regs.latch.result ∧ t.regs.mask.result) ∨ (t.regs.latch.head ∧ t.regs.mask.head) ∨
        (t.regs.latch.line ∧ t.regs.mask.line) ∨ (t.regs.latch.clock ∧ t.regs.mask.clock) ∨
        (t.regs.latch.chain ∧ t.regs.mask.chain) ∨ (t.regs.latch.bus ∧ t.regs.mask.bus) ∨
        (t.regs.latch.capacity ∧ t.regs.mask.capacity)))

/-! ### The post chain -/

/-- A start's header read completes: with well-placed mirrors the engine is READING, every mirror entry is stale and the
first scan asks for `first_link`; otherwise the start ends MIRROR_PLACEMENT (R156, R160, R170). -/
def Obligations.HeaderReadCompletes : Prop :=
  ∀ (s : State) (b : List Byte) (e : Nat), s.bus.outstanding = some ⟨.read .header, e, false⟩ → s.micros ≤ e →
    b.length = 128 →
    let size := s.regs.regionSize.toNat
    let head := rd64 b 8
    let line := rd64 b 16
    let placed := head % 64 = 0 ∧ line % 64 = 0 ∧ 128 ≤ head ∧ 128 ≤ line ∧ head + 16384 ≤ size ∧
      line + 512 ≤ size ∧ (head + 16384 ≤ line ∨ line + 512 ≤ head)
    (placed →
      ∃ t, exec (.headerRead b) s = .next t ∧
        t.chain = { s.chain with
          engine := .reading, starting := false, outcome := .ok
          region := some ⟨s.regs.regionBase.toNat, size, head, line⟩
          follow := none, takenCount := 0, waitingCount := 0, waitedAt := none, condition := .clear
          lastSample := none, scan := some 0, scanTimer := none } ∧
        t.reads (.link 0) ∧
        (∀ m, t.markedOrIssued m) ∧
        s.baseKept t ∧ s.showKept t ∧ s.samplesKept t ∧ t.regs = s.regs ∧ s.rig.kept t.rig) ∧
    (¬placed →
      ∃ t, exec (.headerRead b) s = .next t ∧
        t.chain = { s.chain with starting := false, outcome := .mirrorPlacement } ∧
        s.baseKept t ∧ s.showKept t ∧ s.samplesKept t ∧ t.regs = s.regs ∧ s.rig.kept t.rig)

/-- The scan timer's expiry in READING begins a scan with its first link (R160). That SCAN_TIMER sent before the expiry,
or out of READING, changes nothing is the model's choice for a command without its event (log 2). -/
def Obligations.ScanTimerExpires : Prop :=
  ∀ s : State,
    (∀ x, s.chain.engine = .reading → s.chain.scanTimer = some x → x ≤ s.micros →
      ∃ t, exec .scanTimer s = .next t ∧ t.chain = { s.chain with scan := some 0, scanTimer := none } ∧
        t.reads (.link (s.chain.follow.getD 0)) ∧ s.baseKept t ∧ s.showKept t ∧ s.samplesKept t ∧
        t.regs = s.regs ∧ s.rig.kept t.rig) ∧
    (s.chain.engine ≠ .reading ∨ s.chain.scanTimer = none ∨ (∃ x, s.chain.scanTimer = some x ∧ s.micros < x) →
      exec .scanTimer s = .next s)

/-- A link read completes: a read given up is discarded; a link of 0 ends the scan CLEAR; a broken link ends it BROKEN,
with CHAIN latched on entry; another is followed while the write-back list has room, and without room the scan ends,
CLEAR when it took records and with the condition it had when not (R157, R160, R161). That a broken link is BROKEN with a
full list too is the model's reading (log 10). -/
def Obligations.LinkReadCompletes : Prop :=
  ∀ (s : State) (b : List Byte) (o e : Nat) (g : Bool), s.bus.outstanding = some ⟨.read (.link o), e, g⟩ →
    s.micros ≤ e → b.length = 8 →
    let link := rd64 b 0
    let bad := link % 16 ≠ 0 ∨ s.fits link 32 = false
    ∃ t, exec (.linkRead b) s = .next t ∧ s.baseKept t ∧ s.showKept t ∧ s.windowKept t ∧ s.rig.kept t.rig ∧
      (g = true → t.chain = s.chain ∧ t.regs = s.regs ∧ s.samplesKept t) ∧
      (g = false → link = 0 →
        s.scanEnded t ∧ t.chain.condition = .clear ∧ t.chain.waitingCount = 0 ∧ t.regs = s.regs) ∧
      (g = false → link ≠ 0 → bad →
        s.scanEnded t ∧ t.chain.condition = .broken ∧ t.chain.waitingCount = s.chain.waitingCount ∧
        t.regs.latch = if s.chain.condition = .broken then s.regs.latch else s.regs.latch.add .chain) ∧
      (g = false → link ≠ 0 → ¬bad → s.wb.list.length ≤ 126 →
        t.reads (.head link) ∧ t.chain = s.chain ∧ t.regs = s.regs ∧ s.samplesKept t) ∧
      (g = false → link ≠ 0 → ¬bad → 126 < s.wb.list.length →
        s.scanEnded t ∧ t.regs = s.regs ∧
        (s.chain.scan = some 0 → t.chain.condition = s.chain.condition) ∧
        (∀ n, s.chain.scan = some n → 0 < n → t.chain.condition = .clear))

/-- A record head read completes: a record that is not POSTED, or has an update listed, leaves the chain waiting, STUCK
with CHAIN latched at the sixteenth; a POSTED record has its body read, or is a broken link when it does not fit; a
read given up is discarded (R157, R162, R163). That a record of unknown kind is held for a taking by a row of its own,
that broken is tested before room, and that CHAIN is not latched again by a scan which began under BROKEN, whether or not
it has since taken records, are the model's (log 5, log 10, log 35). -/
def Obligations.RecordHeadReadCompletes : Prop :=
  ∀ (s : State) (b : List Byte) (o e : Nat) (g : Bool), s.bus.outstanding = some ⟨.read (.head o), e, g⟩ →
    s.micros ≤ e → b.length = 32 →
    let h := parseHead o b
    let takeable := h.state = 1 ∧ ∀ u ∈ s.wb.list, u.offset ≠ o
    let n := if s.chain.waitedAt = some o then min 16 (s.chain.waitingCount + 1) else 1
    ∃ t, exec (.recordHeadRead b) s = .next t ∧ s.baseKept t ∧ s.showKept t ∧ s.windowKept t ∧ s.rig.kept t.rig ∧
      (g = true → t.chain = s.chain ∧ t.regs = s.regs ∧ s.samplesKept t) ∧
      (g = false → ¬takeable →
        s.scanEnded t ∧ t.chain.waitingCount = n ∧ t.chain.waitedAt = some o ∧
        t.chain.condition = (if n < 16 then .waiting else .stuck) ∧
        t.regs.latch = if n < 16 ∨ s.chain.condition = .stuck then s.regs.latch else s.regs.latch.add .chain) ∧
      (g = false → takeable → bodyLength h.kind = none → s.wb.list.length ≤ 126 →
        t.chain = { s.chain with holding := some ⟨h, .unknown⟩ } ∧ t.regs = s.regs ∧ s.samplesKept t) ∧
      (g = false → takeable → bodyLength h.kind = none → 126 < s.wb.list.length → s.scanEnded t ∧ t.regs = s.regs) ∧
      (∀ len, g = false → takeable → bodyLength h.kind = some len → s.fits o (32 + len) = true →
        t.reads (if h.kind = 1 then .cueFixed h else .body h) ∧ t.chain = s.chain ∧ t.regs = s.regs ∧
        s.samplesKept t) ∧
      (∀ len, g = false → takeable → bodyLength h.kind = some len → s.fits o (32 + len) = false →
        s.scanEnded t ∧ t.chain.condition = .broken ∧
        t.regs.latch = if s.chain.condition = .broken then s.regs.latch else s.regs.latch.add .chain)

/-- A record body read completes: without room in the write-back list the record is not taken; a CUE's fixed part leads to
its entries, or to BROKEN where they do not fit; a read given up is discarded (R157, R163). Heads, bodies and entries have
their fields at the places of 11.4, least significant byte first, signed ones in two's complement, a flag byte set by any
value but 0 (R177). That a record whose reads are complete is held for a taking by its own row, and that CHAIN is not
latched again by a scan which began under BROKEN, whether or not it has since taken records, are the model's (log 5, log
35). -/
def Obligations.RecordBodyReadCompletes : Prop :=
  (∀ (s : State) (b : List Byte) (h : RecordHead) (e : Nat),
    (∀ (op : ReadOp) (r : Record), s.bus.outstanding = some ⟨.read op, e, false⟩ → s.micros ≤ e →
      b.length = op.length →
      ((op = .body h ∧ r = ⟨h, parseBody h.kind b⟩) ∨ (∃ f, op = .cueEntries h f ∧ r = ⟨h, .cue (parseCue f b)⟩) ∨
        (op = .cueFixed h ∧ cueEntryBytes (rd16 b 6) = 0 ∧ s.fits h.offset 48 = true ∧ r = ⟨h, .cue (parseCue b [])⟩)) →
      ∃ t, exec (.recordBodyRead b) s = .next t ∧ s.baseKept t ∧ s.showKept t ∧ t.regs = s.regs ∧ s.rig.kept t.rig ∧
        (s.wb.list.length ≤ 126 → t.chain = { s.chain with holding := some r } ∧ s.samplesKept t) ∧
        (126 < s.wb.list.length → s.scanEnded t)) ∧
    (∀ op, s.bus.outstanding = some ⟨.read op, e, true⟩ → s.micros ≤ e → b.length = op.length →
      (op = .body h ∨ op = .cueFixed h ∨ ∃ f, op = .cueEntries h f) →
      ∃ t, exec (.recordBodyRead b) s = .next t ∧ s.outsideKept t ∧ s.rig.kept t.rig) ∧
    (s.bus.outstanding = some ⟨.read (.cueFixed h), e, false⟩ → s.micros ≤ e → b.length = 16 → 1 ≤ rd16 b 6 →
      rd16 b 6 ≤ 64 →
      ∃ t, exec (.recordBodyRead b) s = .next t ∧ s.baseKept t ∧ s.showKept t ∧ s.windowKept t ∧ s.rig.kept t.rig ∧
        (s.fits h.offset (48 + 32 * rd16 b 6) = true →
          t.reads (.cueEntries h b) ∧ t.chain = s.chain ∧ t.regs = s.regs ∧ s.samplesKept t) ∧
        (s.fits h.offset (48 + 32 * rd16 b 6) = false →
          s.scanEnded t ∧ t.chain.condition = .broken ∧
          t.regs.latch = if s.chain.condition = .broken then s.regs.latch else s.regs.latch.add .chain))) ∧
  ∀ (b f : List Byte) (o : Nat),
    let byte (i : Nat) := rd8 b i
    let half (i : Nat) := byte i + 256 * byte (i + 1)
    let word (i : Nat) := half i + 65536 * half (i + 2)
    let angle (i : Nat) : Int := if half i < 32768 then half i else (half i : Int) - 65536
    let sign (i : Nat) : Int := if byte i < 128 then byte i else (byte i : Int) - 256
    let ranges (i : Nat) := (List.range 8).map fun k => (half (i + 4 * k), half (i + 4 * k + 2))
    parseHead o b = ⟨o, word 0 + 2 ^ 32 * word 4, BitVec.ofNat 32 (word 8), byte 0x0C, byte 0x0D⟩ ∧
    (List.range 256).map bodyLength = [none, some 16, some 8, some 40, some 8, some 8, some 8, some 48, some 52, some 8,
      some 16] ++ List.replicate 245 none ∧
    parseBody 2 b = .cancel (BitVec.ofNat 32 (word 0)) ∧
    parseBody 3 b = .release {
      layer := byte 0, position := (byte 1).testBit 0, colour := (byte 1).testBit 1, beam := (byte 1).testBit 2
      count := byte 2, fade := half 4, ranges := ranges 8 } ∧
    parseBody 4 b = .patch {
      head := half 0, line := byte 2, address := byte 3, profile := byte 4, panSign := sign 5, tiltSign := sign 6 } ∧
    parseBody 5 b = .unpatch (half 0) ∧ parseBody 6 b = .clearHead (half 0) ∧
    parseBody 7 b = .profile {
      slot := byte 0, remove := decide (byte 1 ≠ 0), lampKind := byte 2, count := byte 3
      model := BitVec.ofNat 32 (word 4), panMin := angle 8, panMax := angle 0x0A, tiltMin := angle 0x0C
      tiltMax := angle 0x0E, panSpeed := half 0x10, tiltSpeed := half 0x12, strike := byte 0x14, cooling := half 0x16
      components := (List.range 6).map fun k => (byte (0x18 + k), byte (0x1E + k), byte (0x24 + k)) } ∧
    parseBody 8 b = .sector {
      slot := byte 0, remove := decide (byte 1 ≠ 0), armed := decide (byte 2 ≠ 0), policy := byte 3
      panMin := angle 4, panMax := angle 6, tiltMin := angle 8, tiltMax := angle 0x0A, wayPan := angle 0x0C
      wayTilt := angle 0x0E, count := byte 0x10, ranges := ranges 0x14 } ∧
    parseBody 9 b = .line {
      line := byte 0, enable := decide (byte 1 ≠ 0), echo := decide (byte 2 ≠ 0), resetCounters := decide (byte 3 ≠ 0)
      refresh := half 4, poll := half 6 } ∧
    parseBody 10 b = .clock {
      command := byte 0, run := decide (byte 1 ≠ 0), rate := byte 2, start := word 4, limit := half 8
      threshold := half 0x0A } ∧
    parseCue b f = {
      layer := byte 0, goPresent := decide (byte 1 ≠ 0), skip := byte 2, together := decide (byte 3 ≠ 0)
      latchWait := half 4, count := half 6, goTime := word 8, entries := (parseCue b f).entries } ∧
    (parseCue f b).entries.length = b.length / 32 ∧
    ∀ n, n < b.length / 32 → (parseCue f b).entries[n]? = some {
      head := half (32 * n), position := (byte (32 * n + 2)).testBit 0, colour := (byte (32 * n + 2)).testBit 1
      beam := (byte (32 * n + 2)).testBit 2, lamp := byte (32 * n + 3), pan := angle (32 * n + 4)
      tilt := angle (32 * n + 6), moveTime := half (32 * n + 8), colourCount := byte (32 * n + 0x0A)
      colourFade := half (32 * n + 0x0C), intensity := half (32 * n + 0x0E), beamFade := half (32 * n + 0x10)
      values := Vector.ofFn fun k : Fin 6 => half (32 * n + 0x12 + 2 * k.val) }

/-! ### Records taken -/

/-- Every record row takes the held record of its kind: the record is answered, its update is the next listed, it is the
follow record and is counted. The scan ends CLEAR at its 32nd record and at a next link of 0, BROKEN at a broken link,
CHAIN being latched on entry, and CLEAR where the write-back list, in which every final update that finds a place already
stands, has no room for two more; elsewhere the next record head is read. A scan's end hands over a header sample, when it
differs from the last, that waits for every update then listed (R149, R159 to R161, R163, R164, R174). That a CLOCK record
of no known command is taken by any CLOCK row, that the record's own update is listed before any other of the same event
and broken tested before room, and that a scan which began under BROKEN latches no CHAIN, are the model's readings (log 6,
log 10, log 35). -/
def Obligations.RecordTaken : Prop :=
  ∀ (s : State) (r : Record) (c : Instr), takesBody c r.body = true → s.readyToTake r →
    let link := r.head.next
    let bad := link % 16 ≠ 0 ∨ s.fits link 32 = false
    ∃ t a, exec c s = .next t ∧ s.takenWith t r a ∧ (a.state = .taken ∨ a.state.final = true) ∧
      let ended := t.chain.scan = none ∧ t.chain.scanTimer = some (s.micros + s.regs.scanPeriod)
      let sample : Sample :=
        ⟨r.head.offset, s.chain.takenCount + 1, t.clock.showTime, t.clock.state, s.chain.engine⟩
      (ended ∨ t.reads (.head link)) ∧
      (link = 0 → t.chain.scan = none ∧ t.chain.condition = .clear) ∧
      ∀ n, s.chain.scan = some n →
        let goesOn := n < 31 ∧ link ≠ 0 ∧ ¬bad
        (31 ≤ n ∨ link = 0 → ended ∧ t.chain.condition = .clear ∧ t.regs.latch.chain = s.regs.latch.chain) ∧
        (n < 31 → link ≠ 0 → bad → ended ∧ t.chain.condition = .broken ∧
          t.regs.latch.chain = (s.regs.latch.chain || decide (s.chain.condition ≠ .broken))) ∧
        ((∀ k ∈ s.rig.offered, s.rig.slots.get k ≠ none) →
          (goesOn → t.wb.list.length ≤ 126 →
            t.reads (.head link) ∧ t.chain.scan = some (n + 1) ∧ t.chain.condition = s.chain.condition ∧
            s.samplesKept t ∧ t.regs.latch.chain = s.regs.latch.chain) ∧
          (goesOn → 126 < t.wb.list.length →
            ended ∧ t.chain.condition = .clear ∧ t.regs.latch.chain = s.regs.latch.chain) ∧
          (¬goesOn ∨ 126 < t.wb.list.length →
            t.chain.lastSample = some sample ∧
            (s.chain.lastSample = some sample → s.samplesKept t) ∧
            (s.chain.lastSample ≠ some sample → s.wb.waiting = none →
              t.wb.waiting = some ⟨sample, t.wb.list.length⟩ ∧ t.wb.later = s.wb.later) ∧
            (s.chain.lastSample ≠ some sample → s.wb.waiting ≠ none →
              t.wb.waiting = s.wb.waiting ∧ t.wb.later = some ⟨sample, t.wb.list.length⟩)))

/-- A PROFILE record: its slot is defined or emptied unless a field is out of range or a patched head names the slot (R3,
R4). -/
def Obligations.ProfileRecord : Prop :=
  ∀ (s : State) (h : RecordHead) (x : ProfileRec), s.readyToTake ⟨h, .profile x⟩ →
    let used (k : ProfileIx) := ∃ i b, (s.rig.heads.get i).avail ≠ .unpatched ∧
      (s.rig.heads.get i).binding = some b ∧ b.profile = k
    let row := if x.remove then Instr.profileRemove else Instr.profile
    let good := x.remove = true ∨ x.inRange
    ∃ t, exec row s = .next t ∧ s.showKept t ∧ t.rig.sectors = s.rig.sectors ∧ t.rig.members = s.rig.members ∧
      t.rig.slots = s.rig.slots ∧ s.rig.headsKept t.rig (fun _ => False) ∧ s.rig.linesKept t.rig (fun _ => False) ∧
      (31 < x.slot ∨ ¬good →
        s.takenWith t ⟨h, .profile x⟩ (.refused .malformed) ∧ t.rig.profiles = s.rig.profiles) ∧
      ∀ k : ProfileIx, x.slot = k.val → good →
        (used k → s.takenWith t ⟨h, .profile x⟩ (.refused .inUse) ∧ t.rig.profiles = s.rig.profiles) ∧
        (¬used k → s.takenWith t ⟨h, .profile x⟩ (.done []) ∧
          t.rig.profiles.get k = (if x.remove then none else some {
            model := x.model, panMin := x.panMin, panMax := x.panMax, tiltMin := x.tiltMin, tiltMax := x.tiltMax
            panSpeed := x.panSpeed, tiltSpeed := x.tiltSpeed, lamp := if x.lampKind = 0 then .none else .discharge
            strike := x.strike, cooling := x.cooling
            components := (x.components.take x.count).map fun c => ⟨c.1, c.2.1, c.2.2⟩ }) ∧
          ∀ j, j ≠ k → t.rig.profiles.get j = s.rig.profiles.get j)

/-- A SECTOR record: refused for its form or for a full membership list, and otherwise its slot is defined or emptied,
the membership lists follow, and PARKED is re-evaluated for the settled patched heads concerned, whose refresh is due at
once where that lights or darkens an ACTIVE or FAULT head (R29, R44, R46 to R49, R56, R97). -/
def Obligations.SectorRecord : Prop :=
  ∀ (s : State) (h : RecordHead) (x : SectorRec), s.readyToTake ⟨h, .sector x⟩ →
    let row := if x.remove then Instr.sectorRemove else Instr.sector
    let good := x.remove = true ∨ x.inRange
    ∃ t, exec row s = .next t ∧ s.showKept t ∧ t.rig.profiles = s.rig.profiles ∧ t.rig.slots = s.rig.slots ∧
      (63 < x.slot ∨ ¬good → s.takenWith t ⟨h, .sector x⟩ (.refused .malformed) ∧ s.rig.kept t.rig) ∧
      ∀ k : SectorIx, x.slot = k.val → good →
        let member (i : HeadIx) := x.remove = false ∧ named (x.ranges.take x.count) i = true
        let crowded := (List.finRange 512).filter fun i =>
          named (x.ranges.take x.count) i && !(s.rig.members.get i).contains k &&
            decide (8 ≤ (s.rig.members.get i).length)
        let concerned (i : HeadIx) := (s.rig.heads.get i).avail ≠ .unpatched ∧ (s.rig.heads.get i).settled = true ∧
          (member i ∨ s.rig.member k i = true)
        let changed := ((List.finRange 512).filter fun i =>
          (s.rig.heads.get i).guard.parked != (t.rig.heads.get i).guard.parked).length
        (∀ i more, x.remove = false → crowded = i :: more →
          s.takenWith t ⟨h, .sector x⟩ ⟨.refused, .full, resultArea (le16 i.val ++ le16 (more.length + 1))⟩ ∧
          s.rig.kept t.rig) ∧
        (x.remove = true → s.rig.sectors.get k = none →
          s.takenWith t ⟨h, .sector x⟩ (.done []) ∧ s.rig.kept t.rig) ∧
        (x.remove = false ∧ crowded = [] ∨ x.remove = true ∧ s.rig.sectors.get k ≠ none →
          s.takenWith t ⟨h, .sector x⟩ (.done (le16 ((if x.remove then [] else
            (List.finRange 512).filter (named (x.ranges.take x.count))).length) ++ le16 changed)) ∧
          t.rig.sectors.get k = (if x.remove then none else some {
            armed := x.armed, box := ⟨x.panMin, x.panMax, x.tiltMin, x.tiltMax⟩
            policy := if x.policy = 0 then .darken else if x.policy = 1 then .detour ⟨x.wayPan, x.wayTilt⟩ else .refuse
            ranges := x.ranges.take x.count }) ∧
          (∀ j, j ≠ k → t.rig.sectors.get j = s.rig.sectors.get j) ∧
          (∀ i, k ∈ t.rig.members.get i ↔ member i) ∧
          (∀ i j, j ≠ k → (j ∈ t.rig.members.get i ↔ j ∈ s.rig.members.get i)) ∧
          (∀ i a, concerned i → (s.rig.heads.get i).accepted = some a →
            Head.framesOnly { s.rig.heads.get i with guard := { (s.rig.heads.get i).guard with
              parked := (t.rig.candidates i).any fun y => y.policy == .darken && y.box.inside a.point } }
              (t.rig.heads.get i)) ∧
          (∀ i, ¬concerned i → Head.framesOnly (s.rig.heads.get i) (t.rig.heads.get i)) ∧
          s.rig.looksChanged t.rig s.now (fun i =>
            (s.rig.heads.get i).lit ∧ (s.rig.heads.get i).guardTurned (t.rig.heads.get i)) ∧
          ∀ l, Line.framesOnly { s.rig.lines.get l with refreshDue := (t.rig.lines.get l).refreshDue }
            (t.rig.lines.get l))

/-- A PATCH record: the first failure of MALFORMED, IN_USE, BOUND and NO_PROFILE answers; an accepted one binds the
context, which is IDENTIFYING on a line in service, an IDENT being requested of it, and OFFLINE on another (R7 to R9,
R92). -/
def Obligations.PatchRecord : Prop :=
  ∀ (s : State) (h : RecordHead) (x : PatchRec), s.readyToTake ⟨h, .patch x⟩ →
    ∃ t, exec .patch s = .next t ∧ s.showKept t ∧ s.rig.tablesKept t.rig ∧ t.rig.slots = s.rig.slots ∧
      (511 < x.head ∨ 15 < x.line ∨ x.address < 1 ∨ 32 < x.address ∨ 31 < x.profile ∨
          (x.panSign ≠ 1 ∧ x.panSign ≠ -1 ∧ x.panSign ≠ 0) ∨ (x.tiltSign ≠ 1 ∧ x.tiltSign ≠ -1 ∧ x.tiltSign ≠ 0) →
        s.takenWith t ⟨h, .patch x⟩ (.refused .malformed) ∧ s.rig.kept t.rig) ∧
      ∀ (i : HeadIx) (b : Binding), x.head = i.val → x.line = b.line.val → x.address = b.address.val + 1 →
        x.profile = b.profile.val → signOf x.panSign = some b.panSign → signOf x.tiltSign = some b.tiltSign →
        ((s.rig.heads.get i).avail ≠ .unpatched →
          s.takenWith t ⟨h, .patch x⟩ (.refused .inUse) ∧ s.rig.kept t.rig) ∧
        ((s.rig.heads.get i).avail = .unpatched → (s.rig.lines.get b.line).addrMap.get b.address ≠ none →
          s.takenWith t ⟨h, .patch x⟩ (.refused .bound) ∧ s.rig.kept t.rig) ∧
        ((s.rig.heads.get i).avail = .unpatched → (s.rig.lines.get b.line).addrMap.get b.address = none →
          s.rig.profiles.get b.profile = none →
          s.takenWith t ⟨h, .patch x⟩ (.refused .noProfile) ∧ s.rig.kept t.rig) ∧
        (∀ p, (s.rig.heads.get i).avail = .unpatched → (s.rig.lines.get b.line).addrMap.get b.address = none →
          s.rig.profiles.get b.profile = some p →
          s.takenWith t ⟨h, .patch x⟩ (.done []) ∧
          Head.framesOnly { Head.unpatched with
            avail := if (s.rig.lines.get b.line).state = .running ∨ (s.rig.lines.get b.line).state = .backoff then
              .identifying else .offline
            binding := some b
            guard := { Guard.none with blackout := s.regs.blackout }
            lamp := if p.lamp = .none then .lit else .off } (t.rig.heads.get i) ∧
          s.rig.headsKept t.rig (fun j => j = i) ∧ s.rig.linesKept t.rig (fun l => l = b.line) ∧
          Line.framesOnly { s.rig.lines.get b.line with
            addrMap := upd (s.rig.lines.get b.line).addrMap b.address (some i) } (t.rig.lines.get b.line) ∧
          ((s.rig.lines.get b.line).occupied → (s.rig.lines.get b.line).requested (t.rig.lines.get b.line) b.address i
            .service (.service i .ident)))

/-- An UNPATCH record: the head's move ends UNPATCHED and is counted FAILED for its cue; its commands and owed marks
leave the line, the freed places being filled from the latch overflow and the owed marks; an exchange with it goes on
alone, for no head; the context returns to its UNPATCHED values and its address is free; other heads keep their state,
binding, guard reasons and lamp (R19, R80, R95, R96, R104, R146). That the record's own update is listed before the final
update of a cue that its move's ending retires is the model's reading (log 10). -/
def Obligations.UnpatchRecord : Prop :=
  ∀ (s : State) (h : RecordHead) (n : Nat), s.readyToTake ⟨h, .unpatch n⟩ →
    ∃ t, exec .unpatch s = .next t ∧ s.showKept t ∧ s.rig.tablesKept t.rig ∧
      (511 < n → s.takenWith t ⟨h, .unpatch n⟩ (.refused .malformed) ∧ s.rig.kept t.rig) ∧
      ∀ i : HeadIx, n = i.val →
        ((s.rig.heads.get i).avail = .unpatched →
          s.takenWith t ⟨h, .unpatch n⟩ (.refused .notPatched) ∧ s.rig.kept t.rig) ∧
        ((s.rig.heads.get i).avail ≠ .unpatched →
          s.takenWith t ⟨h, .unpatch n⟩ (.done []) ∧ Head.framesOnly Head.unpatched (t.rig.heads.get i) ∧
          (∀ b, (s.rig.heads.get i).binding = some b → (t.rig.lines.get b.line).addrMap.get b.address = none) ∧
          (∀ b, (s.rig.heads.get i).binding = some b →
            (∀ a, (s.rig.lines.get b.line).addrMap.get a = some i ↔ a = b.address) →
            let x := s.rig.lines.get b.line
            let y := t.rig.lines.get b.line
            let left := x.queue.filter fun c => !c.names i
            (∀ c ∈ y.queue, c.names i = false) ∧ y.owed.get b.address = Owed.none ∧
            ((s.rig.heads.get i).move = none → x.still →
              y.queue = left ++ (x.waiting.filter fun c => !c.names i).take (48 - left.length)) ∧
            (∀ e, x.work = .exchange e → e.head = i → (∃ c, e.phase = .transmitting c) ∨ (∃ c, e.phase = .window c) →
              y.work = .exchange { e with stopped := true, orphaned := true }) ∧
            (∀ e, x.still → x.work = .exchange e → e.head = i → e.phase = .retransmit ∨ e.phase = .nextAttempt →
              y.work = .idle)) ∧
          (s.rig.noGathering → ∀ k y, s.rig.slots.get k = some y →
            ((∀ m, (s.rig.heads.get i).move = some m → m.cue ≠ some k) → t.rig.slots.get k = some y) ∧
            ∀ m, (s.rig.heads.get i).move = some m → m.cue = some k →
              ∃ z, t.rig.slots.get k = some z ∧ z.outstanding = y.outstanding - 1 ∧
                z.counts = { y.counts with failed := y.counts.failed + 1 } ∧
                (z.retired = true ↔ y.retired = true ∨ (y.applied = true ∧ y.outstanding - 1 = 0))) ∧
          ∀ j, j ≠ i → (t.rig.heads.get j).avail = (s.rig.heads.get j).avail ∧
            (t.rig.heads.get j).binding = (s.rig.heads.get j).binding ∧
            (t.rig.heads.get j).guard = (s.rig.heads.get j).guard ∧ (t.rig.heads.get j).lamp = (s.rig.heads.get j).lamp)

/-- A CLEAR_HEAD record: for a head in FAULT a CLEAR is requested of its line, which replaces a queued SERVICE command of
the head in place, or its owed mark, or joins the queue, or is owed when the queue is full; the head stays in FAULT; every
other head is refused (R17, R92). -/
def Obligations.ClearHeadRecord : Prop :=
  ∀ (s : State) (h : RecordHead) (n : Nat), s.readyToTake ⟨h, .clearHead n⟩ →
    ∃ t, exec .clearHead s = .next t ∧ s.showKept t ∧ s.rig.kept t.rig ∧
      (511 < n → s.takenWith t ⟨h, .clearHead n⟩ (.refused .malformed)) ∧
      ∀ i : HeadIx, n = i.val →
        ((s.rig.heads.get i).avail = .unpatched → s.takenWith t ⟨h, .clearHead n⟩ (.refused .notPatched)) ∧
        ((s.rig.heads.get i).avail ≠ .unpatched → (s.rig.heads.get i).avail ≠ .fault →
          s.takenWith t ⟨h, .clearHead n⟩ (.refused .wrongState)) ∧
        ((s.rig.heads.get i).avail = .fault →
          s.takenWith t ⟨h, .clearHead n⟩ (.done []) ∧
          ∀ b, (s.rig.heads.get i).binding = some b → (s.rig.lines.get b.line).occupied →
            (t.rig.lines.get b.line).queue =
              ((s.rig.lines.get b.line).request b.address (.service i .clear)).queue ∧
            (t.rig.lines.get b.line).owed =
              ((s.rig.lines.get b.line).request b.address (.service i .clear)).owed ∧
            (s.rig.lines.get b.line).requested (t.rig.lines.get b.line) b.address i .service (.service i .clear))

/-- A RELEASE record removes the LIVE cells of the groups it names from the patched heads it names, counts them, and
leaves the SHOW cells and every other head's cells; COLOUR and BEAM go over by a transition from the present output, and
an ACTIVE head goes back to its SHOW position by a catch-up move in the record's fade time; where light may change the
refresh is due at once (R29, R31, R32, R65, R66, R97). That the record's own update is listed before final updates of cues
which overtaken moves retire is the model's reading (log 10). -/
def Obligations.ReleaseRecord : Prop :=
  ∀ (s : State) (h : RecordHead) (x : ReleaseRec), s.readyToTake ⟨h, .release x⟩ →
    ∃ t, exec .release s = .next t ∧ s.showKept t ∧ s.rig.tablesKept t.rig ∧
      (¬x.inRange → s.takenWith t ⟨h, .release x⟩ (.refused .malformed) ∧ s.rig.kept t.rig) ∧
      (x.inRange →
        let hit (i : HeadIx) : Bool :=
          named (x.ranges.take x.count) i && decide ((s.rig.heads.get i).avail ≠ .unpatched)
        s.takenWith t ⟨h, .release x⟩ (.done (le16 (((List.finRange 512).map fun i =>
          if hit i then (x.colour && (s.rig.heads.get i).liveCol.isSome).toNat +
            (x.beam && (s.rig.heads.get i).liveBeam.isSome).toNat +
            (x.position && (s.rig.heads.get i).livePos.isSome).toNat else 0).sum))) ∧
        s.rig.looksChanged t.rig s.now (fun i => (s.rig.heads.get i).lit ∧
          (hit i && ((x.colour && (s.rig.heads.get i).liveCol.isSome) ||
            (x.beam && (s.rig.heads.get i).liveBeam.isSome)) ∨
            (s.rig.heads.get i).guardTurned (t.rig.heads.get i))) ∧
        ∀ i, let u := s.rig.heads.get i
          let v := t.rig.heads.get i
          v.avail = u.avail ∧ v.binding = u.binding ∧ v.guard.blackout = u.guard.blackout ∧
          v.showPos = u.showPos ∧ v.showCol = u.showCol ∧ v.showBeam = u.showBeam ∧
          v.livePos = (if hit i && x.position then none else u.livePos) ∧
          v.liveCol = (if hit i && x.colour then none else u.liveCol) ∧
          v.liveBeam = (if hit i && x.beam then none else u.liveBeam) ∧
          (hit i && x.colour && u.liveCol.isSome → 0 < x.fade →
            v.colRelease = some ⟨u.colourOutput s.now, s.now, x.fade⟩) ∧
          (hit i && x.beam && u.liveBeam.isSome → 0 < x.fade →
            v.beamRelease = some ⟨u.beamOutput s.now, s.now, x.fade⟩) ∧
          (hit i && x.colour && u.liveCol.isSome → x.fade = 0 →
            v.colRelease = some ⟨u.colourOutput s.now, s.now, 0⟩ ∨ v.colRelease = none) ∧
          (hit i && x.beam && u.liveBeam.isSome → x.fade = 0 →
            v.beamRelease = some ⟨u.beamOutput s.now, s.now, 0⟩ ∨ v.beamRelease = none) ∧
          (s.rig.noGathering →
            let back := hit i && x.position && u.livePos.isSome && u.avail == .active
            (∀ c b p, back → u.showPos = some c → u.binding = some b → s.rig.profiles.get b.profile = some p →
              let target := b.heldPoint c.target
              (u.move.isSome = true ∨ u.accepted.map Accepted.point ≠ some target →
                u.planned v (plan p b (s.rig.candidates i) (u.hullFor target) target x.fade) none false) ∧
              (u.move = none → u.accepted.map Accepted.point = some target → v.move = none)) ∧
            (back = false ∨ u.showPos = none →
              v.move.map Move.plain = u.move.map Move.plain ∧ v.lastRefused = u.lastRefused ∧
                v.lastOutcome = u.lastOutcome)))

/-- A LINE record: refused for its form, or the line takes the periods and the echo check flag, whose going off makes the
collision run 0, goes into or out of service as the flag says in its state, and its counters are reset when asked, its
mirror entry then being marked whatever they were. Enabled, its heads are IDENTIFYING and asked for an IDENT in ascending
address order. Disabled, its heads are OFFLINE, their moves ended LINE_DOWN and counted FAILED; its backoff is discarded,
its queue, owed marks and overflow are emptied; a frame on the wire or an open reply window runs to its end, and the rest of
the work is dropped (R9, R20, R21, R90, R91, R104, R146). That the record's own update is listed before the final updates of
cues whose moves end with the line is the model's reading (log 10). -/
def Obligations.LineRecordTaken : Prop :=
  ∀ (s : State) (h : RecordHead) (x : LineRec), s.readyToTake ⟨h, .line x⟩ →
    let good := (x.refresh = 0 ∨ (10 ≤ x.refresh ∧ x.refresh ≤ 200)) ∧ (x.poll = 0 ∨ (5 ≤ x.poll ∧ x.poll ≤ 100))
    ∃ t, exec .line s = .next t ∧ s.showKept t ∧ s.rig.tablesKept t.rig ∧
      (15 < x.line ∨ ¬good → s.takenWith t ⟨h, .line x⟩ (.refused .malformed) ∧ s.rig.kept t.rig) ∧
      ∀ l : LineIx, x.line = l.val → good →
        let u := s.rig.lines.get l
        let v := t.rig.lines.get l
        s.takenWith t ⟨h, .line x⟩ (.done []) ∧ v.addrMap = u.addrMap ∧
        v.refresh = (if x.refresh = 0 then 25 else x.refresh) ∧ v.poll = (if x.poll = 0 then 20 else x.poll) ∧
        v.echo = x.echo ∧
        v.state = (if x.enable then (if u.state = .disabled then .running else u.state) else .disabled) ∧
        (x.resetCounters = true → v.collisions = ⟨0, false⟩ ∧ v.misses = ⟨0, false⟩ ∧ v.checkErrors = ⟨0, false⟩ ∧
          t.markedOrIssued (lineEntry l) ∧
          ∀ a i, u.addrMap.get a = some i → (t.rig.heads.get i).missTotal = ⟨0, false⟩) ∧
        (x.resetCounters = false →
          v.collisions = u.collisions ∧ v.misses = u.misses ∧ v.checkErrors = u.checkErrors) ∧
        v.run = (if u.echo = true ∧ x.echo = false then 0 else u.run) ∧
        (x.enable = true → u.state = .disabled → s.backInService t l x.resetCounters ∧
          ∀ a i, u.addrMap.get a = some i → (t.rig.heads.get i).avail = .identifying) ∧
        (x.enable = false → u.state.inService = true → v.queue = [] ∧ v.overflow = [] ∧
          (∀ a, v.owed.get a = Owed.none) ∧ v.timer = none ∧ s.rig.outOfService t.rig l x.resetCounters ∧
          (u.work = .idle → v.work = .idle) ∧ (∀ k, u.work = .look k → v.work = .look k) ∧
          (∀ n f, u.work = .latch n none f → v.work = .idle) ∧
          (∀ n c f, u.work = .latch n (some c) f → v.work = .latch n (some c) f) ∧
          (∀ e, u.work = .exchange e → v.work =
            if e.phase = .retransmit ∨ e.phase = .nextAttempt then .idle else .exchange { e with stopped := true }) ∧
          ∀ a i, u.addrMap.get a = some i → (t.rig.heads.get i).avail = .offline) ∧
        (x.enable = false → u.state = .jammed → v.timer = none ∧ v.queue = u.queue ∧ v.work = u.work) ∧
        (∀ i, (∀ a, u.addrMap.get a ≠ some i) → (t.rig.heads.get i).avail = (s.rig.heads.get i).avail) ∧
        ∀ m, m ≠ l → (t.rig.lines.get m).mirrored = (s.rig.lines.get m).mirrored

/-- A CLOCK record with command INTERNAL sets show time and the state, discards the timecode tracking, latches CLOCK at a
jump or a change of state, and at a forward jump sets the skip mark of the pending cues it passed over (R128, R129, R130,
R137, R147). That the record's own update is listed before those of the cues then fired or passed over is the model's
reading (log 10). -/
def Obligations.ClockInternalRecord : Prop :=
  ∀ (s : State) (h : RecordHead) (x : ClockRec), s.readyToTake ⟨h, .clock x⟩ → x.command = 1 →
    let new : ClockState := if x.run then .internal else .halted
    let forward := s.clock.showTime + s.clock.threshold < x.start
    let backward := x.start + s.clock.threshold < s.clock.showTime
    ∃ t, exec .clockInternal s = .next t ∧
      (86399999 < x.start →
        s.takenWith t ⟨h, .clock x⟩ ⟨.refused, .malformed, resultArea ([byteOf s.clock.state.code, 0, 0, 0] ++
          le32 s.clock.showTime ++ le32 s.clock.showTime)⟩ ∧
        s.showKept t ∧ t.regs.latch.clock = s.regs.latch.clock ∧ s.rig.kept t.rig) ∧
      (x.start ≤ 86399999 →
        s.takenWith t ⟨h, .clock x⟩ ⟨.done, .ok, resultArea ([byteOf new.code,
          if forward then 1 else if backward then 2 else 0, 0, 0] ++ le32 x.start ++ le32 s.clock.showTime)⟩ ∧
        t.clock = { s.clock with
          state := new, showTime := x.start, seekRuns := false, lockRun := 0, lastFrame := none, lossTimer := none
          freewheelDeadline := none, freewheelStart := none } ∧
        (t.regs.latch.clock = true ↔
          s.regs.latch.clock = true ∨ forward ∨ backward ∨ s.clock.state ≠ new) ∧
        let marked := if forward then skipMarked s.clock.showTime x.start s.cues else s.cues
        t.cues.map Cue.unnoted <:+ marked.map Cue.unnoted ∧
        (x.run = false → (∀ c, marked.head? = some c → c.dropped = false) → t.cues = marked ∧ s.rig.kept t.rig))

/-- A CLOCK record with command HALT: HALTED from every state, show time standing still at its value, no jump, the
timecode tracking discarded; in HALTED nothing changes (R131). That its answer gives show time as it stands as the one
replaced too is the model's choice (log 36). -/
def Obligations.ClockHaltRecord : Prop :=
  ∀ (s : State) (h : RecordHead) (x : ClockRec), s.readyToTake ⟨h, .clock x⟩ → x.command = 2 →
    ∃ t, exec .clockHalt s = .next t ∧
      s.takenWith t ⟨h, .clock x⟩ ⟨.done, .ok, resultArea ([0, 0, 0, 0] ++ le32 s.clock.showTime ++
        le32 s.clock.showTime)⟩ ∧
      (s.clock.state = .halted → t.clock = s.clock ∧ t.regs.latch.clock = s.regs.latch.clock) ∧
      (s.clock.state ≠ .halted →
        t.clock = { s.clock with
          state := .halted, seekRuns := false, lockRun := 0, lastFrame := none, lossTimer := none
          freewheelDeadline := none, freewheelStart := none } ∧ t.regs.latch.clock = true) ∧
      t.clock.runs = false ∧ t.cues = s.cues ∧ s.rig.kept t.rig

/-- A CLOCK record with command CHASE takes its limit and threshold; a clock not chasing, or chasing at another rate,
seeks anew, and one chasing at the same rate goes on with its freewheel deadline recomputed (R129, R132). That a
recomputed deadline equal to the present engine time has passed is the model's reading (log 32), that an accepted record's
answer gives show time as it stands as the one replaced too its choice (log 36). -/
def Obligations.ClockChaseRecord : Prop :=
  ∀ (s : State) (h : RecordHead) (x : ClockRec), s.readyToTake ⟨h, .clock x⟩ → x.command = 3 →
    let good := (x.rate = 24 ∨ x.rate = 25 ∨ x.rate = 30) ∧ (x.limit = 65535 ∨ x.limit ≤ 30000) ∧
      (x.threshold = 0 ∨ (20 ≤ x.threshold ∧ x.threshold ≤ 5000))
    let limit := if x.limit = 65535 then 2000 else x.limit
    let threshold := if x.threshold = 0 then 100 else x.threshold
    ∃ t, exec .clockChase s = .next t ∧ t.cues = s.cues ∧ s.rig.kept t.rig ∧
      (¬good →
        s.takenWith t ⟨h, .clock x⟩ ⟨.refused, .malformed, resultArea ([byteOf s.clock.state.code, 0, 0, 0] ++
          le32 s.clock.showTime ++ le32 s.clock.showTime)⟩ ∧
        t.clock = s.clock ∧ t.regs.latch.clock = s.regs.latch.clock) ∧
      (good →
        s.takenWith t ⟨h, .clock x⟩ ⟨.done, .ok, resultArea ([byteOf t.clock.state.code, 0, 0, 0] ++
          le32 s.clock.showTime ++ le32 s.clock.showTime)⟩ ∧
        t.clock.rate.fps = x.rate ∧ t.clock.limit = limit ∧ t.clock.threshold = threshold ∧
        t.clock.showTime = s.clock.showTime ∧
        (t.regs.latch.clock = true ↔ s.regs.latch.clock = true ∨ t.clock.state ≠ s.clock.state) ∧
        (s.clock.state = .halted ∨ s.clock.state = .internal ∨ s.clock.rate.fps ≠ x.rate →
          t.clock = { s.clock with
            state := .seeking, rate := t.clock.rate, limit := limit, threshold := threshold, seekRuns := false
            lockRun := 0, lastFrame := none, lossTimer := none, freewheelDeadline := none
            freewheelStart := none }) ∧
        (s.clock.state = .locked ∨ s.clock.state = .held → s.clock.rate.fps = x.rate →
          t.clock = { s.clock with limit := limit, threshold := threshold }) ∧
        (s.clock.state = .seeking ∨ s.clock.state = .freewheel → s.clock.rate.fps = x.rate →
          (s.clock.freewheelStart = none → t.clock = { s.clock with limit := limit, threshold := threshold }) ∧
          ∀ f, s.clock.freewheelStart = some f →
            (s.now < f + limit → t.clock = { s.clock with
              limit := limit, threshold := threshold, freewheelDeadline := some (f + limit) }) ∧
            (f + limit ≤ s.now → t.clock = { s.clock with
              limit := limit, threshold := threshold, freewheelDeadline := none, freewheelStart := none
              seekRuns := false
              state := if s.clock.state = .freewheel then .held else .seeking })))

/-- A CUE record: the first failure of MALFORMED, DUPLICATE_TAG and FULL answers; an admitted cue is TAKEN and takes its
place in the list by go-time; one due at once with a slot free fires at once; and one admitted late, its go-time passed
while show time fires cues, has its skip mark: by its policy it fires SKIPPED or is passed over (R138 to R141, R143, R144,
R148). That a cue without TOGETHER keeps the default latch wait is the model's choice (log 20). -/
def Obligations.CueRecord : Prop :=
  ∀ (s : State) (h : RecordHead) (c : CueRec), s.readyToTake ⟨h, .cue c⟩ →
    let good := c.inRange
    let twice := ∃ d ∈ s.cues, d.tag = h.tag
    let full := 256 ≤ s.cues.length ∨ 4096 < poolUsed s.cues + c.entries.length
    ∃ t, exec .cue s = .next t ∧ s.rig.tablesKept t.rig ∧ t.clock = s.clock ∧
      (¬good → s.takenWith t ⟨h, .cue c⟩ (.refused .malformed)) ∧
      (good → twice → s.takenWith t ⟨h, .cue c⟩ (.refused .duplicateTag)) ∧
      (good → ¬twice → full → s.takenWith t ⟨h, .cue c⟩ (.refused .full)) ∧
      (good → ¬twice → ¬full → s.takenWith t ⟨h, .cue c⟩ ⟨.taken, .ok, []⟩) ∧
      (s.cuesStill → ¬good ∨ twice ∨ full → t.cues = s.cues ∧ s.rig.kept t.rig) ∧
      (s.cuesStill → good → ¬twice → ¬full →
        s.rig.kept t.rig ∧
        ∃ before after new, s.cues = before ++ after ∧ t.cues = before ++ new :: after ∧
          (∀ d ∈ before, d.goTime ≤ new.goTime) ∧ (∀ d, after.head? = some d → new.goTime < d.goTime) ∧
          new.tag = h.tag ∧ new.offset = h.offset ∧ new.layer = (if c.layer = 0 then .show else .live) ∧
          new.goTime = (if c.goPresent then c.goTime else s.clock.showTime) ∧
          new.policy = (if c.skip = 0 then .fire else .drop) ∧ new.together = c.together ∧
          new.latchWait = (if c.together = false ∨ c.latchWait = 0 then 100 else c.latchWait) ∧
          new.entries = c.entries.filterMap EntryRec.kept ∧ new.entries.length = c.entries.length ∧
          (∀ p ∈ c.entries.zip new.entries, p.1.keptAs p.2) ∧ new.skip = false ∧ new.noted = false) ∧
      (∀ k, good → s.cues = [] → ¬full → s.clock.state.firing = true → c.goPresent = false →
        s.rig.freeSlot = some k →
        t.cues = [] ∧ ∃ x, t.rig.slots.get k = some x ∧ x.tag = h.tag ∧ x.offset = h.offset ∧
          x.fireShow = s.clock.showTime ∧ x.lateness = 0 ∧ x.skipped = false) ∧
      (good → s.cues = [] → ¬full → s.clock.state.firing = true → c.goPresent = true →
        c.goTime < s.clock.showTime →
        let late := min (s.clock.showTime - c.goTime) 65535
        (c.skip = 0 → ∀ k, s.rig.freeSlot = some k →
          t.cues = [] ∧ ∃ x, t.rig.slots.get k = some x ∧ x.tag = h.tag ∧ x.fireShow = s.clock.showTime ∧
            x.lateness = late ∧ x.lateFire = true ∧ x.skipped = true) ∧
        (c.skip = 0 → s.rig.freeSlot = none →
          ∃ new, t.cues = [new] ∧ new.tag = h.tag ∧ new.skip = true ∧ new.noted = true) ∧
        (c.skip = 1 → s.rig.offered = [] →
          t.cues = [] ∧ (s.wb.list ++ [⟨h.offset, .taken, .ok, [], none⟩, ⟨h.offset, .passed, .ok,
            cueArea s.clock.showTime late ⟨0, 0, 0, 0, 0, 0⟩ false true, none⟩]) <+: t.wb.list))

/-- A CANCEL record: a pending cue of the tag leaves the list with its CANCELLED update; a tag that only a slot carries is
NOT_PENDING with the lowest such slot, any other NOT_FOUND (R151, R152). That the CANCELLED update is listed behind the
record's own is the model's reading (log 10), and the order of the example in section 10.4. -/
def Obligations.CancelRecord : Prop :=
  ∀ (s : State) (h : RecordHead) (g : Tag), s.readyToTake ⟨h, .cancel g⟩ →
    let carries (k : SlotIx) := (s.rig.slots.get k).map Running.tag = some g
    ∃ t, exec .cancel s = .next t ∧ s.rig.tablesKept t.rig ∧ t.clock = s.clock ∧
      (∀ c before after, s.cues = before ++ c :: after → c.tag = g → (∀ d ∈ before, d.tag ≠ g) →
        s.takenWith t ⟨h, .cancel g⟩ (.done (le64 c.offset ++ le32 c.goTime)) ∧
        (s.wb.list ++ [⟨h.offset, .done, .ok, resultArea (le64 c.offset ++ le32 c.goTime), none⟩,
          ⟨c.offset, .cancelled, .ok, resultArea [], none⟩]) <+: t.wb.list ∧
        (∀ d ∈ t.cues, d.tag ≠ g) ∧
        (s.cuesStill → t.cues = before ++ after.filter (fun d => d.tag != g) ∧ s.rig.kept t.rig)) ∧
      ((∀ d ∈ s.cues, d.tag ≠ g) →
        (∀ k, carries k → (∀ j, j < k → ¬carries j) →
          s.takenWith t ⟨h, .cancel g⟩ ⟨.done, .notPending, resultArea [byteOf k.val]⟩) ∧
        ((∀ k, ¬carries k) → s.takenWith t ⟨h, .cancel g⟩ ⟨.done, .notFound, resultArea []⟩) ∧
        (s.cuesStill → t.cues = s.cues ∧ s.rig.kept t.rig))

/-- A record of unknown kind is taken and REFUSED with UNKNOWN_KIND, and changes nothing else (R163). -/
def Obligations.UnknownKindRecord : Prop :=
  ∀ (s : State) (h : RecordHead), s.readyToTake ⟨h, .unknown⟩ →
    ∃ t, exec .unknownKindRecord s = .next t ∧ s.takenWith t ⟨h, .unknown⟩ ⟨.refused, .unknownKind, resultArea []⟩ ∧
      s.showKept t ∧ s.rig.kept t.rig

/-! ### Writes -/

/-- The two writes of a record update: the result write leads to the state write, whose completion takes the update off
the list, latches RESULT for a final state, and frees the slot of a retired cue (R150, R169, R174). -/
def Obligations.UpdateWritten : Prop :=
  ∀ (s : State) (u : Update) (rest : List Update) (e : Nat) (g : Bool), s.wb.list = u :: rest → s.micros ≤ e →
    (s.bus.outstanding = some ⟨.result u, e, g⟩ →
      ∃ t, exec .resultWrite s = .next t ∧
        (t.bus.writerReq = some .state ∨ t.bus.outstanding = some ⟨.state u, s.micros + 10000, false⟩) ∧
        s.outsideKept t ∧ s.rig.kept t.rig) ∧
    (s.bus.outstanding = some ⟨.state u, e, g⟩ →
      ∃ t, exec .stateWrite s = .next t ∧ rest <+: t.wb.list ∧
        t.regs.latch.result = (s.regs.latch.result || u.state.final) ∧ s.windowKept t ∧ t.pending = s.pending ∧
        t.micros = s.micros ∧ t.chain = s.chain ∧ t.clock = s.clock ∧ s.rig.tablesKept t.rig ∧
        t.bus.held = s.bus.held ∧ t.wb.lastHead = s.wb.lastHead ∧ t.wb.lastLine = s.wb.lastLine ∧
        t.wb.waiting = s.wb.waiting.map (fun p => { p with barrier := p.barrier - 1 }) ∧
        t.wb.later = s.wb.later.map (fun p => { p with barrier := p.barrier - 1 }) ∧
        (s.cuesStill ∨ s.cues = [] →
          t.cues = s.cues ∧ (∀ k, u.slot = some k → t.rig.slots.get k = none) ∧
          (∀ k, u.slot ≠ some k → t.rig.slots.get k = s.rig.slots.get k) ∧
          s.rig.headsKept t.rig (fun _ => False) ∧ s.rig.linesKept t.rig (fun _ => False)))

/-- A mirror write's completion makes the state it carried the last written one, and latches HEAD or LINE when it
differs; a header write's completion makes the later sample the waiting one, and the next write is then chosen: a mirror
turn after eight updates, a ready header, the front update, a marked entry, in this order, an entry being the next marked
one of the sweep, written as it stands with its stamp raised and its mark cleared. A command other than a reset that
changes what an entry carries leaves the entry marked or its write issued, and clears a mark only by such a write (R22,
R111, R170 to R174). -/
def Obligations.MirrorAndHeaderWritten : Prop :=
  ∀ (s : State) (e : Nat) (g : Bool),
    (∀ (c : Instr) t, c ≠ .cardReset → c ≠ .softReset → (∀ o w v, c ≠ .registerWriteOther o w v) → exec c s = .next t →
      (∀ h, (t.rig.heads.get h).mirrored ≠ (s.rig.heads.get h).mirrored → t.markedOrIssued (headEntry h)) ∧
      (∀ l, (t.rig.lines.get l).mirrored ≠ (s.rig.lines.get l).mirrored → t.markedOrIssued (lineEntry l)) ∧
      ∀ m, s.rig.marks.get m = true → t.markedOrIssued m) ∧
    (s.micros ≤ e →
    (∀ m i a b, s.bus.outstanding = some ⟨.mirror m (.head i a) b, e, g⟩ →
      ∃ t, exec .mirrorWrite s = .next t ∧ t.wb.lastHead.get i = a ∧
        (∀ j, j ≠ i → t.wb.lastHead.get j = s.wb.lastHead.get j) ∧ t.wb.lastLine = s.wb.lastLine ∧
        t.regs = (if s.wb.lastHead.get i = a then s.regs
          else { s.regs with latch := { s.regs.latch with head := true } }) ∧
        t.pending = s.pending ∧ t.micros = s.micros ∧ s.wb.list <+: t.wb.list ∧ t.bus.held = s.bus.held ∧
        s.showKept t ∧ s.samplesKept t ∧ t.chain = s.chain ∧ s.rig.kept t.rig) ∧
    (∀ m l a b, s.bus.outstanding = some ⟨.mirror m (.line l a) b, e, g⟩ →
      ∃ t, exec .mirrorWrite s = .next t ∧ t.wb.lastLine.get l = a ∧
        (∀ j, j ≠ l → t.wb.lastLine.get j = s.wb.lastLine.get j) ∧ t.wb.lastHead = s.wb.lastHead ∧
        t.regs = (if s.wb.lastLine.get l = a then s.regs
          else { s.regs with latch := { s.regs.latch with line := true } }) ∧
        t.pending = s.pending ∧ t.micros = s.micros ∧ s.wb.list <+: t.wb.list ∧ t.bus.held = s.bus.held ∧
        s.showKept t ∧ s.samplesKept t ∧ t.chain = s.chain ∧ s.rig.kept t.rig) ∧
    (∀ p, s.bus.outstanding = some ⟨.header p, e, g⟩ →
      ∃ t, exec .headerWrite s = .next t ∧ t.wb.waiting = s.wb.later ∧ t.wb.later = none ∧ s.baseKept t ∧
        s.showKept t ∧ t.regs = s.regs ∧ t.chain = s.chain ∧ s.rig.kept t.rig ∧
        (s.chain.engine = .reading ∨ s.chain.engine = .paused → s.bus.readerReq = none → s.bus.writerReq = none →
          s.rig.offered = [] →
          let next (m : MirrorIx) := ∃ n : Fin 528, m = s.wb.sweep + n ∧ s.rig.marks.get m = true ∧
            ∀ n' : Fin 528, n' < n → s.rig.marks.get (s.wb.sweep + n') = false
          let turn := 8 ≤ s.wb.sinceMirror ∧ ∃ m, s.rig.marks.get m = true
          let ready := ∃ q, s.wb.later = some q ∧ q.barrier = 0
          (∀ m, next m → turn ∨ (¬ready ∧ s.wb.list = []) →
            t.wb.stamps = upd s.wb.stamps m (s.wb.stamps.get m + 1) ∧ t.wb.sweep = m + 1 ∧ t.wb.sinceMirror = 0 ∧
            t.rig.marks = upd s.rig.marks m false ∧
            (∀ h, m = headEntry h → ∃ b,
              t.bus.outstanding = some ⟨.mirror m (.head h (s.rig.heads.get h).avail) b, s.micros + 10000, false⟩ ∧
              (s.rig.heads.get h).writtenAs (s.wb.stamps.get m + 1) b) ∧
            (∀ l, m = lineEntry l → ∃ b,
              t.bus.outstanding = some ⟨.mirror m (.line l (s.rig.lines.get l).state) b, s.micros + 10000, false⟩ ∧
              (s.rig.lines.get l).writtenAs (s.wb.stamps.get m + 1) b)) ∧
          (∀ q, ¬turn → s.wb.later = some q → q.barrier = 0 →
            t.bus.outstanding = some ⟨.header q.sample, s.micros + 10000, false⟩) ∧
          (∀ u rest, ¬turn → ¬ready → s.wb.list = u :: rest →
            t.bus.outstanding = some ⟨.result u, s.micros + 10000, false⟩) ∧
          (¬ready → s.wb.list = [] → (∀ m, s.rig.marks.get m = false) → t.bus.outstanding = none))))

/-- An access that fails latches BUS: in IDLE the start ends HEADER_BUS_ERROR with nothing held; otherwise the engine is
BUS_PAUSED and holds the access unless its requester had given it up. The completion timer's expiry is such a failure, and
a completion of any kind that comes after it is discarded (R156, R165, R166). That a scan ended by a bus error makes no
header sample is the model's reading (log 17); that these rows change nothing without an access, or before the expiry, is
its choice for a command without its event (log 2). -/
def Obligations.AccessFails : Prop :=
  ∀ s : State,
    (s.bus.outstanding = none → exec .busAccessError s = .next s ∧ exec .completionTimer s = .next s) ∧
    ∀ o, s.bus.outstanding = some o →
      (s.micros < o.expiry → exec .completionTimer s = .next s) ∧
      (o.expiry < s.micros → exec .busAccessError s = .next s ∧ exec .resultWrite s = .next s ∧
        exec .stateWrite s = .next s ∧ exec .mirrorWrite s = .next s ∧ exec .headerWrite s = .next s ∧
        ∀ b, exec (.headerRead b) s = .next s ∧ exec (.linkRead b) s = .next s ∧
          exec (.recordHeadRead b) s = .next s ∧ exec (.recordBodyRead b) s = .next s) ∧
      ∀ c : Instr, (c = .busAccessError ∧ s.micros ≤ o.expiry) ∨ (c = .completionTimer ∧ o.expiry ≤ s.micros) →
      ∃ t, exec c s = .next t ∧
        t.regs = { s.regs with latch := { s.regs.latch with bus := true } } ∧ t.bus.outstanding = none ∧
        t.pending = s.pending ∧ t.micros = s.micros ∧ s.showKept t ∧ t.wb = s.wb ∧ t.rig = s.rig ∧
        (s.chain.engine = .idle →
          t.chain = { s.chain with starting := false, outcome := .headerBusError } ∧ t.bus.held = s.bus.held) ∧
        (s.chain.engine ≠ .idle →
          t.chain = { s.chain with
            engine := .busPaused, scanTimer := none, scan := none, holding := none
            waitedAt := t.chain.waitedAt } ∧
          t.bus.readerReq = none ∧ t.bus.held = (if o.givenUp then none else some o.access))

/-! ### Cues -/

/-- The front cue at a firing: due with a slot free it takes the lowest such slot with its tag, fire times, lateness and
marks; due without one it waits, CAPACITY being latched once; not due it stays (R143, R144). -/
def Obligations.FiringAtFront : Prop :=
  ∀ (s : State) (c : Cue) (rest : List Cue), s.cues = c :: rest → c.dropped = false →
    let due := (s.clock.state = .internal ∨ s.clock.state = .locked ∨ s.clock.state = .freewheel) ∧
      (c.skip = true ∨ c.goTime ≤ s.clock.showTime)
    ∃ t, exec .firing s = .next t ∧ s.baseKept t ∧ s.samplesKept t ∧ s.windowKept t ∧ t.clock = s.clock ∧
      t.chain = s.chain ∧ s.rig.tablesKept t.rig ∧
      (∀ k, due → s.rig.slots.get k = none → (∀ j, j < k → s.rig.slots.get j ≠ none) →
        t.cues.map Cue.tag <:+ rest.map Cue.tag ∧
        ∃ x, t.rig.slots.get k = some x ∧ x.tag = c.tag ∧ x.offset = c.offset ∧ x.together = c.together ∧
          x.latchWait = c.latchWait ∧ x.fireShow = s.clock.showTime ∧ x.fireEngine = s.now ∧
          x.lateness = min (s.clock.showTime - c.goTime) 65535 ∧
          x.lateFire = decide (c.goTime < s.clock.showTime) ∧ x.skipped = c.skip) ∧
      (due → (∀ k, s.rig.slots.get k ≠ none) →
        t.cues = { c with noted := true } :: rest ∧ s.rig.kept t.rig ∧
        t.regs = (if c.noted then s.regs
          else { s.regs with latch := { s.regs.latch with capacity := true } })) ∧
      (¬due → t.cues = s.cues ∧ s.rig.kept t.rig ∧ t.regs = s.regs)

/-- What the firing of a cue of one entry does. For an UNPATCHED head nothing is stored and the entry counts REFUSED. On a
patched head the cue's layer takes one cell for each group carried, the fades from the present outputs; the cells of other
groups stay; a COLOUR or BEAM cell makes the refresh of a lit head due at once, as does a guard-reason set that stops being
empty; its lamp request acts by the state of the lamp; the slot counts the entry DEFERRED on a head that is not ACTIVE or
where the POSITION does not win, APPLIED on an ACTIVE one given no POSITION; and a POSITION that wins on an ACTIVE head is
planned: refused it counts REFUSED, otherwise a new move is on the head, overtaking the one it held, an AIM is requested,
and the slot has it outstanding, gathering when the cue is TOGETHER. A cue with no move outstanding retires as it fires,
and its final update is listed at once (R24, R25, R29, R33, R34, R39, R40, R61, R65, R66, R79, R82, R97, R145, R146, R149,
R151). -/
def Obligations.FiredEntryApplied : Prop :=
  ∀ (s : State) (c : Cue) (e : Entry) (k : SlotIx), s.cues = [c] → c.dropped = false → c.entries = [e] →
    s.clock.state.firing = true → c.goTime ≤ s.clock.showTime → s.rig.freeSlot = some k →
    let u := s.rig.heads.get e.head
    ∃ t, exec .firing s = .next t ∧ t.cues = [] ∧
      (∀ x, t.rig.slots.get k = some x → x.outstanding = 0 → x.applied = true ∧ x.retired = true ∧
        (s.rig.offered = [] → s.wb.list.length < 128 → t.wb.list = s.wb.list ++ [⟨c.offset, .done, .ok,
          cueArea s.clock.showTime (min (s.clock.showTime - c.goTime) 65535) x.counts
            (decide (c.goTime < s.clock.showTime)) c.skip, some k⟩])) ∧
      (u.avail = .unpatched → s.rig.headsKept t.rig (fun _ => False) ∧ s.rig.linesKept t.rig (fun _ => False) ∧
        ∃ x, t.rig.slots.get k = some x ∧ x.counts = ⟨0, 0, 0, 1, 0, 0⟩ ∧ x.outstanding = 0) ∧
      (u.avail ≠ .unpatched →
      let v := t.rig.heads.get e.head
      v.avail = u.avail ∧
      s.rig.dueFollows t.rig s.now e.head (e.colour.isSome = true ∨ e.beam.isSome = true) ∧
      (c.layer = .show → v.livePos = u.livePos ∧ v.liveCol = u.liveCol ∧ v.liveBeam = u.liveBeam ∧
        v.showPos = (match e.position with | some p => some ⟨p.target, p.moveTime, k⟩ | none => u.showPos) ∧
        v.showCol = (match e.colour with
          | some q => some ⟨q.target, ⟨u.colourOutput s.now, s.now, q.fade⟩, k⟩ | none => u.showCol) ∧
        v.showBeam = (match e.beam with
          | some q => some ⟨q.target, ⟨u.beamOutput s.now, s.now, q.fade⟩, k⟩ | none => u.showBeam)) ∧
      (c.layer = .live → v.showPos = u.showPos ∧ v.showCol = u.showCol ∧ v.showBeam = u.showBeam ∧
        v.livePos = (match e.position with | some p => some ⟨p.target, p.moveTime, k⟩ | none => u.livePos) ∧
        v.liveCol = (match e.colour with
          | some q => some ⟨q.target, ⟨u.colourOutput s.now, s.now, q.fade⟩, k⟩ | none => u.liveCol) ∧
        v.liveBeam = (match e.beam with
          | some q => some ⟨q.target, ⟨u.beamOutput s.now, s.now, q.fade⟩, k⟩ | none => u.liveBeam)) ∧
      (u.avail ≠ .active → ∃ x, t.rig.slots.get k = some x ∧ x.counts = ⟨0, 0, 1, 0, 0, 0⟩ ∧ x.outstanding = 0) ∧
      (u.avail = .active → e.position = none →
        ∃ x, t.rig.slots.get k = some x ∧ x.counts = ⟨0, 1, 0, 0, 0, 0⟩ ∧ x.outstanding = 0) ∧
      (u.avail = .active → e.position.isSome = true → c.layer = .show → u.livePos.isSome = true →
        (∃ x, t.rig.slots.get k = some x ∧ x.counts = ⟨0, 0, 1, 0, 0, 0⟩ ∧ x.outstanding = 0) ∧
        v.move.map Move.plain = u.move.map Move.plain) ∧
      (∀ p b pr, u.avail = .active → e.position = some p → c.layer = .live ∨ u.livePos = none → u.binding = some b →
        s.rig.profiles.get b.profile = some pr → s.rig.noGathering → u.move.bind Move.cue ≠ some k →
        let target := b.heldPoint p.target
        let pl := plan pr b (s.rig.candidates e.head) (u.hullFor target) target p.moveTime
        u.planned v pl (some (k, c.tag)) c.together ∧
        ((∃ reason, pl = .refused reason) →
          ∃ x, t.rig.slots.get k = some x ∧ x.counts = ⟨0, 0, 0, 1, 0, 0⟩ ∧ x.outstanding = 0) ∧
        ((∃ leg1 leg2 dark, pl = .legs leg1 leg2 dark) →
          (∃ x, t.rig.slots.get k = some x ∧ x.counts = ⟨0, 0, 0, 0, 0, 0⟩ ∧ x.outstanding = 1 ∧ x.retired = false ∧
            x.gathering = if c.together then ⟨.gathering, 1, some (s.now + c.latchWait), Vector.replicate 16 false⟩
              else Gathering.none) ∧
          (∀ m j y, u.move = some m → m.cue = some j → s.rig.slots.get j = some y →
            ∃ z, t.rig.slots.get j = some z ∧ z.outstanding = y.outstanding - 1 ∧
              z.counts = { y.counts with overtaken := y.counts.overtaken + 1 }) ∧
          (u.move = none → e.lamp = .none → (s.rig.lines.get b.line).occupied →
            (s.rig.lines.get b.line).requested (t.rig.lines.get b.line) b.address e.head .motion (.aim e.head)))) ∧
      (∀ b pr, u.binding = some b → s.rig.profiles.get b.profile = some pr →
        let x := s.rig.lines.get b.line
        let y := t.rig.lines.get b.line
        let driven := u.avail = .active ∨ u.avail = .fault
        let plain := e.position = none ∧ x.still ∧ x.addrMap.get b.address = some e.head ∧
          (x.waiting = [] ∨ 48 ≤ x.queue.length) ∧ Command.latch k ∉ x.queue ∧ k ∉ x.overflow
        let queueLeft := plain → y.queue = x.queue ∧ y.owed = x.owed
        (e.lamp = .none ∨ pr.lamp = .none → v.strikePending = u.strikePending ∧ queueLeft) ∧
        (pr.lamp = .discharge → e.lamp = .strike →
          (driven → u.lamp = .off → v.strikePending = u.strikePending ∧ (plain →
            x.requested y b.address e.head .lamp (.lamp e.head .strike))) ∧
          (driven → u.lamp = .striking ∨ u.lamp = .lit → v.strikePending = u.strikePending ∧
            (plain →
              y.queue = (x.withdraw b.address e.head fun d => d == .lamp e.head .douse).queue)) ∧
          (driven → u.lamp = .cooling → v.strikePending = true ∧ queueLeft) ∧
          (¬driven → v.strikePending = true ∧ queueLeft)) ∧
        (pr.lamp = .discharge → e.lamp = .douse → v.strikePending = false ∧
          (driven → u.lamp = .striking ∨ u.lamp = .lit → plain →
            x.requested y b.address e.head .lamp (.lamp e.head .douse)) ∧
          (driven → u.lamp = .off → plain →
            y.queue = (x.withdraw b.address e.head fun d => d == .lamp e.head .strike).queue) ∧
          (¬driven ∨ u.lamp = .cooling → queueLeft))) ∧
      v.lamp = u.lamp ∧
      ∀ j, j ≠ e.head → (t.rig.heads.get j).showPos = (s.rig.heads.get j).showPos ∧
        (t.rig.heads.get j).livePos = (s.rig.heads.get j).livePos ∧
        (t.rig.heads.get j).showCol = (s.rig.heads.get j).showCol ∧
        (t.rig.heads.get j).liveCol = (s.rig.heads.get j).liveCol ∧
        (t.rig.heads.get j).showBeam = (s.rig.heads.get j).showBeam ∧
        (t.rig.heads.get j).liveBeam = (s.rig.heads.get j).liveBeam)

/-- A marked DROP cue at the front is passed over in any clock state once the write-back list has room: it leaves the
list with its PASSED update listed; without room it stays (R148, R151). That PASSED_OVER without such a front, and FIRING
with one, change nothing is the model's choice for a command without its event (log 2). -/
def Obligations.PassedOverAtFront : Prop :=
  ∀ s : State,
    ((s.cues = [] ∨ ∃ c rest, s.cues = c :: rest ∧ (c.skip = false ∨ c.policy = .fire)) →
      exec .passedOver s = .next s) ∧
    ∀ c rest, s.cues = c :: rest → c.skip = true → c.policy = .drop →
      exec .firing s = .next s ∧
      ∃ t, exec .passedOver s = .next t ∧ s.baseKept t ∧ s.samplesKept t ∧ s.windowKept t ∧ t.clock = s.clock ∧
        t.chain = s.chain ∧ s.rig.tablesKept t.rig ∧
        (s.givePlaces.wb.list.length < 128 →
          t.cues.map Cue.tag <:+ rest.map Cue.tag ∧
          (s.givePlaces.wb.list ++ [⟨c.offset, .passed, .ok, cueArea s.clock.showTime
            (min (s.clock.showTime - c.goTime) 65535) ⟨0, 0, 0, 0, 0, 0⟩ false true, none⟩]) <+: t.wb.list) ∧
        (128 ≤ s.givePlaces.wb.list.length → t.cues = s.cues ∧ s.rig.kept t.rig)

/-! ### The show clock -/

/-- A timecode frame: not taken when it is not valid or the clock is not chasing; locked it sets show time; seeking it
goes on with the lock run and locks at the third; in FREEWHEEL and HELD it begins a run. CLOCK is latched at a jump or a
change of state, and a forward jump sets the skip mark of the pending cues it passed over (R128, R133 to R137, R147). -/
def Obligations.TimecodeFrameArrives : Prop :=
  ∀ s : State, exec (.timecodeFrame none) s = .next s ∧
    ∀ f : Timecode,
      let fps := s.clock.rate.fps
      let valid := f.hours ≤ 23 ∧ f.minutes ≤ 59 ∧ f.seconds ≤ 59 ∧ f.frames < fps
      let second := (f.hours * 60 + f.minutes) * 60 + f.seconds
      let value := second * 1000 + f.frames * 1000 / fps
      let index := second * fps + f.frames
      let jump := s.clock.showTime + s.clock.threshold < value ∨ value + s.clock.threshold < s.clock.showTime
      let loss := s.now + (3000 + fps - 1) / fps
      let goesOn := ∃ g : LastFrame, s.clock.lastFrame = some g ∧ (s.now - g.arrival) * fps ≤ 2000 ∧
        index = if g.index + 1 = 86400 * fps then 0 else g.index + 1
      (¬valid ∨ s.clock.state = .halted ∨ s.clock.state = .internal →
        exec (.timecodeFrame (some f)) s = .next s) ∧
      (valid → s.clock.state ≠ .halted → s.clock.state ≠ .internal →
        ∃ t, exec (.timecodeFrame (some f)) s = .next t ∧ s.baseKept t ∧ s.samplesKept t ∧ s.windowKept t ∧
          t.chain = s.chain ∧ s.rig.tablesKept t.rig ∧
          (let set := s.clock.state = .locked ∨ (s.clock.state = .seeking ∧ goesOn ∧ 2 ≤ s.clock.lockRun)
            let ahead := set ∧ s.clock.showTime + s.clock.threshold < value
            (ahead → t.cues.map Cue.unnoted <:+ (skipMarked s.clock.showTime value s.cues).map Cue.unnoted) ∧
            (¬ahead → t.cues.map Cue.unnoted <:+ s.cues.map Cue.unnoted) ∧
            (¬set → s.cuesStill → t.cues = s.cues ∧ s.rig.kept t.rig)) ∧
          (s.clock.state = .locked →
            t.clock = { s.clock with showTime := value, lossTimer := some loss } ∧
            (t.regs.latch.clock = true ↔ s.regs.latch.clock = true ∨ jump)) ∧
          (s.clock.state = .seeking → goesOn ∧ 2 ≤ s.clock.lockRun →
            t.clock = { s.clock with
              state := .locked, showTime := value, seekRuns := false, lockRun := 0, lastFrame := none
              lossTimer := some loss, freewheelDeadline := none, freewheelStart := none } ∧
            t.regs.latch.clock = true) ∧
          (s.clock.state = .seeking → ¬goesOn ∨ s.clock.lockRun < 2 →
            (goesOn → t.clock = { s.clock with lockRun := s.clock.lockRun + 1, lastFrame := some ⟨index, s.now⟩ }) ∧
            (¬goesOn → t.clock = { s.clock with lockRun := 1, lastFrame := some ⟨index, s.now⟩ }) ∧
            t.regs.latch.clock = s.regs.latch.clock) ∧
          (s.clock.state = .freewheel ∨ s.clock.state = .held →
            t.clock = { s.clock with
              state := .seeking, seekRuns := decide (s.clock.state = .freewheel), lockRun := 1
              lastFrame := some ⟨index, s.now⟩ } ∧
            t.regs.latch.clock = true))

/-- The loss timer's expiry in CHASE_LOCKED leads to FREEWHEEL, or to HELD with a limit of 0; the freewheel deadline's
leads from FREEWHEEL to HELD, and makes a running seek stand still with no cause latched (R135 to R137). That these rows
change nothing with a timer not held or not reached is the model's choice for a command without its event (log 2). -/
def Obligations.ClockTimersExpire : Prop :=
  ∀ s : State,
    (s.clock.state ≠ .locked ∨ s.clock.lossTimer = none ∨ (∃ x, s.clock.lossTimer = some x ∧ s.now < x) →
      exec .lossTimer s = .next s) ∧
    (∀ x, s.clock.state = .locked → s.clock.lossTimer = some x → x ≤ s.now → 0 < s.clock.limit →
      exec .lossTimer s = .next { s with
        clock := { s.clock with
          state := .freewheel, lossTimer := none, freewheelDeadline := some (s.now + s.clock.limit)
          freewheelStart := some s.now }
        regs := { s.regs with latch := { s.regs.latch with clock := true } } }) ∧
    (∀ x, s.clock.state = .locked → s.clock.lossTimer = some x → x ≤ s.now → s.clock.limit = 0 →
      exec .lossTimer s = .next { s with
        clock := { s.clock with
          state := .held, lossTimer := none, seekRuns := false, freewheelDeadline := none, freewheelStart := none }
        regs := { s.regs with latch := { s.regs.latch with clock := true } } }) ∧
    (s.clock.freewheelDeadline = none ∨ (∃ x, s.clock.freewheelDeadline = some x ∧ s.now < x) →
      exec .freewheelDeadline s = .next s) ∧
    (∀ x, s.clock.state = .freewheel → s.clock.freewheelDeadline = some x → x ≤ s.now →
      exec .freewheelDeadline s = .next { s with
        clock := { s.clock with
          state := .held, seekRuns := false, freewheelDeadline := none, freewheelStart := none }
        regs := { s.regs with latch := { s.regs.latch with clock := true } } }) ∧
    (∀ x, s.clock.state = .seeking → s.clock.freewheelDeadline = some x → x ≤ s.now →
      exec .freewheelDeadline s = .next { s with clock := { s.clock with
        seekRuns := false, freewheelDeadline := none, freewheelStart := none } })

/-- Time goes on by one microsecond at a step with no command waiting, running show time by one at each whole
millisecond, never past 86,399,999, where the end of the show day leaves it (R126, R127). That an idle step is a
microsecond is the model's choice (log 1), and so is the row SHOW_DAY_END's meaning (log 30). -/
def Obligations.TimeGoesOn : Prop :=
  ∀ s : State,
    (s.pending = [] →
      let runs := s.clock.state = .internal ∨ s.clock.state = .locked ∨ s.clock.state = .freewheel ∨
        (s.clock.state = .seeking ∧ s.clock.seekRuns = true)
      ∃ t, step s = .next t ∧ t = { s with micros := s.micros + 1, clock := t.clock } ∧
        t.clock = { s.clock with showTime := t.clock.showTime } ∧
        ((s.micros + 1) % 1000 ≠ 0 ∨ ¬runs → t.clock.showTime = s.clock.showTime) ∧
        ((s.micros + 1) % 1000 = 0 → runs → t.clock.showTime = min (s.clock.showTime + 1) 86399999)) ∧
    (s.clock.showTime ≤ 86399999 → exec .showDayEnd s = .next s)

/-! ### Timers of heads and gatherings -/

/-- The timers of a head: a strike timer's expiry makes the lamp LIT; a cooling timer's makes it OFF and acts on a pending
strike of an ACTIVE or FAULT head; the identification timer's requests an IDENT (R9, R42). That these rows change nothing
with a timer not held or not run out is the model's choice for a command without its event (log 2). -/
def Obligations.HeadTimersExpire : Prop :=
  ∀ (s : State) (i : HeadIx),
    let u := s.rig.heads.get i
    (∃ t, exec (.strikeTimer i) s = .next t ∧ s.outsideKept t ∧
      ((∀ x, u.lampTimer = some ⟨.strike, x⟩ → s.now < x) → s.rig.kept t.rig) ∧
      ∀ x, u.lampTimer = some ⟨.strike, x⟩ → x ≤ s.now →
        Head.framesOnly { u with lamp := .lit, lampTimer := none } (t.rig.heads.get i) ∧
        s.rig.headsKept t.rig (fun j => j = i) ∧ s.rig.tablesKept t.rig ∧ t.rig.slots = s.rig.slots ∧
        s.rig.linesKept t.rig (fun _ => False)) ∧
    (∃ t, exec (.coolingTimer i) s = .next t ∧ s.outsideKept t ∧
      ((∀ x, u.lampTimer = some ⟨.cooling, x⟩ → s.now < x) → s.rig.kept t.rig) ∧
      ∀ x, u.lampTimer = some ⟨.cooling, x⟩ → x ≤ s.now →
        let acted := u.strikePending = true ∧ (u.avail = .active ∨ u.avail = .fault)
        Head.framesOnly { u with
          lamp := .off, lampTimer := none, strikePending := if acted then false else u.strikePending }
          (t.rig.heads.get i) ∧
        s.rig.headsKept t.rig (fun j => j = i) ∧ s.rig.tablesKept t.rig ∧ t.rig.slots = s.rig.slots ∧
        s.rig.linesKept t.rig (fun _ => False) ∧
        ∀ b, u.binding = some b → (s.rig.lines.get b.line).occupied → (t.rig.lines.get b.line).queue =
          if acted then ((s.rig.lines.get b.line).request b.address (.lamp i .strike)).queue
          else (s.rig.lines.get b.line).queue) ∧
    (∃ t, exec (.identificationTimer i) s = .next t ∧ s.outsideKept t ∧
      let waits := u.avail = .identifying ∨ u.avail = .mismatch ∨ u.avail = .lost
      (¬waits ∨ u.identTimer = none ∨ (∃ x, u.identTimer = some x ∧ s.now < x) → s.rig.kept t.rig) ∧
      ∀ x, waits → u.identTimer = some x → x ≤ s.now →
        Head.framesOnly { u with identTimer := none } (t.rig.heads.get i) ∧
        s.rig.headsKept t.rig (fun j => j = i) ∧ s.rig.tablesKept t.rig ∧ t.rig.slots = s.rig.slots ∧
        s.rig.linesKept t.rig (fun _ => False) ∧
        ∀ b, u.binding = some b → (s.rig.lines.get b.line).occupied → (t.rig.lines.get b.line).queue =
          ((s.rig.lines.get b.line).request b.address (.service i .ident)).queue)

/-- The deadline of a TRAVELLING move: it ends STALLED, the head is in FAULT with cause STALL, and its cue counts the
entry FAILED; the head's refresh due time stays, but that a head not dark before is due at once; where that retires the
cue's slot, no LATCH of its number stays queued, in overflow or held, and one on the wire is not held for resending (R16,
R29, R78, R80, R87, R96, R97, R105, R146). That DEADLINE changes nothing with a deadline not held or not reached is the
model's choice for a command without its event (log 2); what becomes of the LATCH on the wire at a collision is its
reading (log 16). -/
def Obligations.DeadlineExpires : Prop :=
  ∀ (s : State) (i : HeadIx),
    let u := s.rig.heads.get i
    ∃ t, exec (.deadline i) s = .next t ∧ s.outsideKept t ∧
      ((∀ m x, u.move = some m → m.state = .travelling → m.deadline = some x → s.now < x) → s.rig.kept t.rig) ∧
      ∀ m x, u.move = some m → m.state = .travelling → m.deadline = some x → x ≤ s.now →
        Head.framesOnly { u with
          move := none, lastOutcome := some .stalled, avail := .fault, faultCause := .stall
          guard := { u.guard with fault := true } } (t.rig.heads.get i) ∧
        s.rig.headsKept t.rig (fun j => j = i) ∧ s.rig.tablesKept t.rig ∧
        s.rig.dueFollows t.rig s.now i False ∧
        (∀ l, Line.framesOnly { s.rig.lines.get l with refreshDue := (t.rig.lines.get l).refreshDue }
          (t.rig.lines.get l)) ∧
        (∀ k, m.cue ≠ some k → t.rig.slots.get k = s.rig.slots.get k) ∧
        ∀ k y, m.cue = some k → s.rig.slots.get k = some y →
          ∃ z, t.rig.slots.get k = some z ∧ z.outstanding = y.outstanding - 1 ∧
            z.counts = { y.counts with failed := y.counts.failed + 1 } ∧ z.tag = y.tag ∧ z.offset = y.offset ∧
            (z.retired = true ↔ y.retired = true ∨ (y.applied = true ∧ y.outstanding - 1 = 0)) ∧
            (y.retired = false → z.retired = true → ∀ l, s.rig.latchGone t.rig l k)

/-- The latch deadline of a gathering: it becomes LATCHED, the moves of its cue that are still PLANNED go unstaged, those
ON_WIRE stay as they are, and a LATCH is requested on each line of its set: coalesced with one queued, in overflow or
held, or queued, or put in overflow, and where no room is left the moves it was for end FAILED (R84, R94). That
LATCH_DEADLINE changes nothing with a deadline not held or not reached is the model's choice for a command without its
event (log 2). -/
def Obligations.LatchDeadlineExpires : Prop :=
  ∀ (s : State) (k : SlotIx),
    ∃ t, exec (.latchDeadline k) s = .next t ∧ s.outsideKept t ∧ s.rig.tablesKept t.rig ∧
      ((∀ y x, s.rig.slots.get k = some y → y.gathering.state = .gathering → y.gathering.deadline = some x →
        s.now < x) → s.rig.kept t.rig) ∧
      ∀ y x, s.rig.slots.get k = some y → y.gathering.state = .gathering → y.gathering.deadline = some x → x ≤ s.now →
        (∃ z, t.rig.slots.get k = some z ∧ z.gathering.state = .latched ∧ z.gathering.deadline = none ∧
          z.tag = y.tag) ∧
        (∀ i m, (s.rig.heads.get i).move = some m → m.cue = some k → m.state = .planned →
          ∃ n, (t.rig.heads.get i).move = some n ∧ n.plain = { m with staged := false }.plain) ∧
        (∀ i m, (s.rig.heads.get i).move = some m → (m.cue ≠ some k ∨ m.state = .onWire) → m.state ≠ .staged →
          ∃ n, (t.rig.heads.get i).move = some n ∧ n.plain = m.plain) ∧
        ((∀ l, (s.rig.lines.get l).queue.length < 48) → 0 < y.outstanding → ∀ l, y.gathering.lines.get l = true →
          (s.rig.lines.get l).state.inService = true → (s.rig.lines.get l).occupied →
          Command.latch k ∈ (t.rig.lines.get l).queue ∨ k ∈ (t.rig.lines.get l).overflow ∨
            ∃ e f, (t.rig.lines.get l).work = .latch k e f) ∧
        ((∀ l, (s.rig.lines.get l).queue.length < 48 ∨ (s.rig.lines.get l).overflow.length < 4) → 0 < y.outstanding →
          ∀ l, (s.rig.lines.get l).still →
            (y.gathering.lines.get l = true → (s.rig.lines.get l).latchRequested (t.rig.lines.get l) k) ∧
            (y.gathering.lines.get l = false → (t.rig.lines.get l).queue = (s.rig.lines.get l).queue ∧
              (t.rig.lines.get l).overflow = (s.rig.lines.get l).overflow)) ∧
        (∀ l, (∀ j, y.gathering.lines.get j = true ↔ j = l) → (s.rig.lines.get l).state.inService = true →
          48 ≤ (s.rig.lines.get l).queue.length → 4 ≤ (s.rig.lines.get l).overflow.length →
          Command.latch k ∉ (s.rig.lines.get l).queue → k ∉ (s.rig.lines.get l).overflow →
          (s.rig.lines.get l).work.holdsLatch k = false →
          ∀ i m, (s.rig.heads.get i).move = some m → m.state = .staged → m.latch = some k →
            let u := s.rig.heads.get i
            let v := t.rig.heads.get i
            ((∃ a, (s.rig.lines.get l).addrMap.get a = some i) →
              v.move = none ∧ v.lastOutcome = some .failed ∧ v.settled = false ∧ v.accepted = u.accepted ∧
              v.hull = some (match u.hull with | some b => b.cover m.leg.target.box | none => m.leg.target.box)) ∧
            ((∀ a, (s.rig.lines.get l).addrMap.get a ≠ some i) → Head.framesOnly u v))

/-! ### Fixture lines -/

/-- What an idle line with an empty queue sends when a refresh is due, the poll period has elapsed, or it becomes quiet:
the LOOK of the earliest due time, lower address first, dark under a guard reason, or the POLL of the next head that is
poll-wanted, or of the next that is pollable when none is; with nothing due it stays idle; once the line is quiet its
receiver waits no longer (R35, R97 to R99, R101, R102, R112, R113). That each of the three rows lets the line make
whatever choice it can, and changes nothing beside it when it can make none, are the model's choices (log 2, log 11);
LINE_QUIET acts no sooner than 40 µs of mark allow (log 13). -/
def Obligations.IdleLineSends : Prop :=
  ∀ (s : State) (l : LineIx) (c : Instr),
    c = .refreshDue l ∨ c = .pollPeriodElapsed l ∨ c = .lineQuiet l →
    let x := s.rig.lines.get l
    let hush := c = .lineQuiet l ∧ ∃ q, x.quietAt = some q ∧ q ≤ s.micros
    let ready := x.state = .running ∧ x.work = .idle ∧ x.queue = [] ∧ (x.quietAt = none ∨ hush)
    ∃ t, exec c s = .next t ∧ s.outsideKept t ∧ s.rig.tablesKept t.rig ∧ t.rig.slots = s.rig.slots ∧
      s.rig.headsKept t.rig (fun _ => False) ∧ s.rig.linesKept t.rig (fun m => m = l) ∧
      (hush → Line.framesOnly { x with quietAt := none, awaitsQuiet := false } (t.rig.lines.get l)) ∧
      (¬hush → Line.framesOnly x (t.rig.lines.get l)) ∧
      (x.quietAt ≠ none → ¬hush → t.rig.lines.get l = x) ∧
      (ready → (∀ a due, x.refreshDue.get a = some due → s.now < due) →
        (s.now < x.lastPoll + x.poll ∨ ∀ a h, x.addrMap.get a = some h →
          (s.rig.heads.get h).avail ≠ .active ∧ (s.rig.heads.get h).avail ≠ .fault) →
        (t.rig.lines.get l).work = .idle ∧ (t.rig.lines.get l).queue = []) ∧
      (∀ (n : Fin 32) h, ready → (∀ a due, x.refreshDue.get a = some due → s.now < due) →
        x.lastPoll + x.poll ≤ s.now →
        (∀ a h', x.addrMap.get a = some h' →
          (s.rig.heads.get h').avail ≠ .active ∨ (s.rig.heads.get h').settled = true) →
        x.addrMap.get (x.pollPos + 1 + n) = some h →
        (s.rig.heads.get h).avail = .active ∨ (s.rig.heads.get h).avail = .fault →
        (∀ (n' : Fin 32) h', n' < n → x.addrMap.get (x.pollPos + 1 + n') = some h' →
          (s.rig.heads.get h').avail ≠ .active ∧ (s.rig.heads.get h').avail ≠ .fault) →
        let y := t.rig.lines.get l
        y.work = .exchange ⟨.poll, h, x.pollPos + 1 + n, x.seq, none, plainFrame (x.pollPos + 1 + n) .poll x.seq, 1,
          .transmitting x.echo, false, false⟩ ∧
        y.seq = x.seq + 1 ∧ y.lastPoll = s.now ∧ y.framesSincePoll = 0 ∧ y.pollPos = x.pollPos + 1 + n) ∧
      (∀ a h due, ready → x.addrMap.get a = some h → x.refreshDue.get a = some due → due ≤ s.now →
        (∀ a' due', x.refreshDue.get a' = some due' → due < due' ∨ (due = due' ∧ a ≤ a')) →
        (s.now < x.lastPoll + x.poll ∨ x.framesSincePoll < 8) →
        let u := s.rig.heads.get h
        let intensity := if u.guard = Guard.none then u.beamOutput s.now else 0
        (t.rig.lines.get l).work = .look ⟨h, a, lookFrame a (s.rig.componentsOf h) (u.colourOutput s.now) intensity,
          intensity, s.now, false, x.echo⟩) ∧
      (∀ (n : Fin 32) h, ready → (∀ a due, x.refreshDue.get a = some due → s.now < due) →
        x.lastPoll + x.poll ≤ s.now → x.addrMap.get (x.pollPos + 1 + n) = some h →
        (s.rig.heads.get h).avail = .active → (s.rig.heads.get h).settled = false →
        (∀ (n' : Fin 32) h', n' < n → x.addrMap.get (x.pollPos + 1 + n') = some h' →
          (s.rig.heads.get h').avail ≠ .active ∨ (s.rig.heads.get h').settled = true) →
        let y := t.rig.lines.get l
        y.work = .exchange ⟨.poll, h, x.pollPos + 1 + n, x.seq, none, plainFrame (x.pollPos + 1 + n) .poll x.seq, 1,
          .transmitting x.echo, false, false⟩ ∧
        y.seq = x.seq + 1 ∧ y.lastPoll = s.now ∧ y.framesSincePoll = 0 ∧ y.pollPos = x.pollPos + 1 + n)

/-- What a line with commands queued sends when it becomes quiet, or RUNNING again by its backoff's expiry: a dark LOOK
before a darkened AIM; the LOOK of the earliest due time, when a refresh is overdue by half, or due after four commands; a
POLL, when the period has elapsed and eight frames have gone out since the last; and otherwise the queue front: an AIM
built from the move record with the head's next AIM sequence, a lamp or service command that applies with the line
sequence, a LATCH, its place being filled from the overflow and the owed marks. A command that does not apply is
discarded; once the line is quiet its receiver waits no longer (R60, R67, R92, R95, R97 to R102, R105, R109, R112, R113).
That LINE_QUIET acts no sooner than 40 µs of mark allow is the model's part of R112 (log 13). -/
def Obligations.QueueFrontSent : Prop :=
  ∀ (s : State) (l : LineIx) (c : Instr) (front : Command) (rest : List Command),
    let x := s.rig.lines.get l
    (c = .lineQuiet l ∧ x.state = .running ∧ ∃ q, x.quietAt = some q ∧ q ≤ s.micros) ∨
      (c = .backoffExpiry l ∧ x.state = .backoff ∧ x.quietAt = none ∧ ∃ d, x.timer = some d ∧ d ≤ s.now) →
    x.work = .idle → x.queue = front :: rest →
    ∃ t, exec c s = .next t ∧ s.outsideKept t ∧ s.rig.tablesKept t.rig ∧ t.rig.slots = s.rig.slots ∧
      s.rig.headsKept t.rig (fun _ => False) ∧ s.rig.linesKept t.rig (fun m => m = l) ∧
      Line.framesOnly { x with
        quietAt := none, awaitsQuiet := decide (x.state = .backoff) && x.awaitsQuiet
        state := .running, timer := if x.state = .backoff then none else x.timer }
        (t.rig.lines.get l) ∧
      let y := t.rig.lines.get l
      let darkAim (h : HeadIx) (b : Binding) := front = .aim h ∧ (s.rig.heads.get h).binding = some b ∧
        (s.rig.heads.get h).avail = .active ∧
        ∃ m, (s.rig.heads.get h).move = some m ∧ m.darken = true ∧ m.darkSent = false
      let dark := ∃ h b, darkAim h b
      let skips := ∃ h, x.afterDark = some h ∧ front = .aim h
      let escalates := ∃ a due, x.refreshDue.get a = some due ∧
        (due + x.refresh / 2 ≤ s.now ∨ (4 ≤ x.commandsSinceLook ∧ due ≤ s.now))
      let wanted (a : AddrIx) := ∃ h, x.addrMap.get a = some h ∧ (s.rig.heads.get h).avail = .active ∧
        (s.rig.heads.get h).settled = false
      let polls := x.lastPoll + x.poll ≤ s.now ∧ 8 ≤ x.framesSincePoll ∧ ∃ a, wanted a
      let takes := ¬dark ∧ (skips ∨ (¬escalates ∧ ¬polls))
      let refilled := rest ++ x.waiting.take (48 - rest.length)
      (∀ h b h', darkAim h b → x.addrMap.get b.address = some h' →
        y.work = .look ⟨h', b.address, lookFrame b.address (s.rig.componentsOf h')
          ((s.rig.heads.get h').colourOutput s.now) 0, 0, s.now, true, x.echo⟩ ∧ y.queue = x.queue) ∧
      (∀ a h due, ¬dark → ¬skips → escalates → x.addrMap.get a = some h → x.refreshDue.get a = some due →
        (∀ a' due', x.refreshDue.get a' = some due' → due < due' ∨ (due = due' ∧ a ≤ a')) →
        let u := s.rig.heads.get h
        let intensity := if u.guard = Guard.none then u.beamOutput s.now else 0
        y.work = .look ⟨h, a, lookFrame a (s.rig.componentsOf h) (u.colourOutput s.now) intensity, intensity, s.now,
          false, x.echo⟩ ∧ y.queue = x.queue) ∧
      (∀ (n : Fin 32) h, ¬dark → ¬skips → ¬escalates → polls → x.addrMap.get (x.pollPos + 1 + n) = some h →
        wanted (x.pollPos + 1 + n) → (∀ n' : Fin 32, n' < n → ¬wanted (x.pollPos + 1 + n')) →
        y.work = .exchange ⟨.poll, h, x.pollPos + 1 + n, x.seq, none, plainFrame (x.pollPos + 1 + n) .poll x.seq, 1,
          .transmitting x.echo, false, false⟩ ∧ y.queue = x.queue ∧
        y.seq = x.seq + 1 ∧ y.lastPoll = s.now ∧ y.framesSincePoll = 0 ∧ y.pollPos = x.pollPos + 1 + n) ∧
      (∀ h b m, takes → front = .aim h → (s.rig.heads.get h).binding = some b → (s.rig.heads.get h).move = some m →
        (s.rig.heads.get h).avail = .active → c = .lineQuiet l ∨ s.othersStill l →
        let u := s.rig.heads.get h
        y.work = .exchange ⟨.aim, h, b.address, u.nextAim, some ⟨m.leg.target, u.nextAim, m.staged⟩,
          aimFrame b.address u.nextAim (b.turn m.leg.target) m.leg.time m.staged m.latch, 1, .transmitting x.echo,
          false, false⟩ ∧
        y.queue = refilled ∧ y.commandsSinceLook = x.commandsSinceLook + 1 ∧
        (s.othersStill l → (t.rig.heads.get h).nextAim = u.nextAim + 1 ∧
          ∃ n, (t.rig.heads.get h).move = some n ∧ n.state = .onWire ∧ n.attempts = 1 ∧
            n.leg.seq = some u.nextAim)) ∧
      (∀ h b k, takes → front = .lamp h k → (s.rig.heads.get h).binding = some b →
        (s.rig.heads.get h).avail = .active ∨ (s.rig.heads.get h).avail = .fault →
        y.work = .exchange ⟨k.kind, h, b.address, x.seq, none, plainFrame b.address k.kind x.seq, 1,
          .transmitting x.echo, false, false⟩ ∧ y.seq = x.seq + 1 ∧ y.queue = refilled ∧
        y.commandsSinceLook = x.commandsSinceLook + 1) ∧
      (∀ h b k, takes → front = .service h k → (s.rig.heads.get h).binding = some b →
        (k = .ident → (s.rig.heads.get h).avail = .identifying ∨ (s.rig.heads.get h).avail = .mismatch ∨
          (s.rig.heads.get h).avail = .lost) →
        (k = .clear → (s.rig.heads.get h).avail = .fault) →
        y.work = .exchange ⟨k.kind, h, b.address, x.seq, none, plainFrame b.address k.kind x.seq, 1,
          .transmitting x.echo, false, false⟩ ∧ y.seq = x.seq + 1 ∧ y.queue = refilled ∧
        y.commandsSinceLook = x.commandsSinceLook + 1) ∧
      (∀ n, takes → front = .latch n → y.work = .latch n (some x.echo) (latchFrame n) ∧ y.queue = refilled ∧
        y.commandsSinceLook = x.commandsSinceLook + 1) ∧
      (∀ h, takes → (front = .aim h ∧ ((s.rig.heads.get h).avail ≠ .active ∨ (s.rig.heads.get h).move = none)) ∨
          (∃ k, front = .lamp h k ∧ (s.rig.heads.get h).avail ≠ .active ∧ (s.rig.heads.get h).avail ≠ .fault) ∨
          (front = .service h .clear ∧ (s.rig.heads.get h).avail ≠ .fault) ∨
          (front = .service h .ident ∧ (s.rig.heads.get h).avail.awaitsIdent = false) →
        refilled = [] → (∀ a due, x.refreshDue.get a = some due → s.now < due) → s.now < x.lastPoll + x.poll →
        y.work = .idle ∧ y.queue = [])

/-- A backoff's expiry makes the line RUNNING and, once it is quiet, sends kept work again, a POLL's transmission being a
POLL's again; a jam hold's brings the line and its heads back, as on enabling, an IDENT of each being requested in
ascending address order (R9, R21, R98, R107, R109). That these rows change nothing with a timer not held or not run out is
the model's choice for a command without its event (log 2). -/
def Obligations.LineTimersExpire : Prop :=
  ∀ (s : State) (l : LineIx),
    let x := s.rig.lines.get l
    (∃ t, exec (.backoffExpiry l) s = .next t ∧ s.outsideKept t ∧ s.rig.tablesKept t.rig ∧
      t.rig.slots = s.rig.slots ∧ s.rig.headsKept t.rig (fun _ => False) ∧ s.rig.linesKept t.rig (fun m => m = l) ∧
      (x.state ≠ .backoff ∨ x.timer = none ∨ (∃ d, x.timer = some d ∧ s.now < d) → s.rig.kept t.rig) ∧
      ∀ d, x.state = .backoff → x.timer = some d → d ≤ s.now →
        Line.framesOnly { x with state := .running, timer := none } (t.rig.lines.get l) ∧
        (∀ e, x.quietAt = none → x.work = .exchange e → e.phase = .retransmit →
          (t.rig.lines.get l).work = .exchange { e with phase := .transmitting x.echo } ∧
          (e.kind = .poll → (t.rig.lines.get l).lastPoll = s.now ∧ (t.rig.lines.get l).framesSincePoll = 0 ∧
            (t.rig.lines.get l).pollPos = e.address) ∧
          (e.kind ≠ .poll → (t.rig.lines.get l).lastPoll = x.lastPoll)) ∧
        (x.quietAt ≠ none → (t.rig.lines.get l).work = x.work ∧ (t.rig.lines.get l).queue = x.queue) ∧
        (∀ n f, x.quietAt = none → x.work = .latch n none f →
          (t.rig.lines.get l).work = .latch n (some x.echo) f)) ∧
    (∃ t, exec (.jamHoldExpiry l) s = .next t ∧ s.outsideKept t ∧ s.rig.tablesKept t.rig ∧
      t.rig.slots = s.rig.slots ∧
      (x.state ≠ .jammed ∨ x.timer = none ∨ (∃ d, x.timer = some d ∧ s.now < d) → s.rig.kept t.rig) ∧
      ∀ d, x.state = .jammed → x.timer = some d → d ≤ s.now →
        (t.rig.lines.get l).state = .running ∧ (t.rig.lines.get l).timer = none ∧
        (t.rig.lines.get l).lastPoll = s.now ∧ s.backInService t l false ∧
        (∀ a i, x.addrMap.get a = some i → (t.rig.heads.get i).avail = .identifying ∧
          (t.rig.heads.get i).identTimer = none) ∧
        (∀ i, (∀ a, x.addrMap.get a ≠ some i) → Head.framesOnly (s.rig.heads.get i) (t.rig.heads.get i)) ∧
        ∀ m, m ≠ l → (t.rig.lines.get m).mirrored = (s.rig.lines.get m).mirrored)

/-- A collision on a frame whose echo is checked: the frame is abandoned, both collision counts rise, the wait for quiet
begins, and the line backs off for a millisecond per collision in a row, or is JAMMED at the eighth with its heads
OFFLINE, their moves ended LINE_DOWN and counted FAILED; a LATCH is held to be sent again, unless its slot has left
RUNNING since it began; with no echo checked there is no collision (R20, R80, R87, R96, R101, R102, R104, R105, R107,
R108, R110, R112, R146). The model's readings and choices: COLLISION without a checked frame changes nothing (log 2); a
LATCH whose slot has left RUNNING is dropped (log 16); an exchange already stopped ends at once (log 33); a line already
DISABLED stays so and drops its work (log 15). -/
def Obligations.CollisionFound : Prop :=
  ∀ (s : State) (l : LineIx),
    let x := s.rig.lines.get l
    ∃ t, exec (.collision l) s = .next t ∧ s.outsideKept t ∧ s.rig.tablesKept t.rig ∧
      (x.work.checked = false → s.rig.kept t.rig) ∧
      (x.work.checked = true → x.state = .running → x.run < 7 →
        t.rig.slots = s.rig.slots ∧ s.rig.headsKept t.rig (fun _ => False) ∧
        s.rig.linesKept t.rig (fun m => m = l) ∧
        Line.framesOnly { x with
          collisions := x.collisions.bump, run := x.run + 1, state := .backoff, timer := some (s.now + (x.run + 1))
          quietAt := some (s.micros + 40) } (t.rig.lines.get l) ∧
        (t.rig.lines.get l).queue = x.queue ∧
        (∀ k, x.work = .look k → (t.rig.lines.get l).work = .idle) ∧
        (∀ n e f, x.work = .latch n e f → (t.rig.lines.get l).work = if x.latchSpent then .idle else .latch n none f) ∧
        (∀ e, x.work = .exchange e → (t.rig.lines.get l).work =
          if e.stopped then .idle else .exchange { e with phase := .retransmit })) ∧
      (x.work.checked = true → x.state = .disabled →
        t.rig.slots = s.rig.slots ∧ s.rig.headsKept t.rig (fun _ => False) ∧ s.rig.linesKept t.rig (fun m => m = l) ∧
        Line.framesOnly { x with
          collisions := x.collisions.bump, run := min 8 (x.run + 1), quietAt := some (s.micros + 40) }
          (t.rig.lines.get l) ∧
        (t.rig.lines.get l).work = .idle) ∧
      (x.work.checked = true → x.state = .running → 7 ≤ x.run →
        let y := t.rig.lines.get l
        y.state = .jammed ∧ y.timer = some (s.now + 500) ∧ y.run = 0 ∧ y.quietAt = some (s.micros + 40) ∧
        y.owed = Vector.replicate 32 Owed.none ∧ y.work = .idle ∧ y.queue = [] ∧
        y.overflow = [] ∧ y.collisions = x.collisions.bump ∧ y.misses = x.misses ∧ y.checkErrors = x.checkErrors ∧
        s.rig.outOfService t.rig l false ∧
        (∀ a i, x.addrMap.get a = some i → (t.rig.heads.get i).avail = .offline ∧ (t.rig.heads.get i).missRun = 0 ∧
          (t.rig.heads.get i).identTimer = none) ∧
        ∀ i, (∀ a, x.addrMap.get a ≠ some i) → (t.rig.heads.get i).avail = (s.rig.heads.get i).avail)

/-- Frames that complete cleanly: a LOOK sets the head's next refresh and a dark one its move's mark, and one sent before a
darkened AIM lets that AIM go next; a LATCH sets the
staged moves of its number on its line off; an attempt's frame opens its reply window of 400 µs; each makes the
collision run 0 and begins the wait for quiet (R86, R97, R99, R101, R102, R105, R107, R112). That a completion without its
frame on the wire changes nothing is the model's choice for a command without its event (log 2). -/
def Obligations.FramesComplete : Prop :=
  ∀ (s : State) (l : LineIx),
    let x := s.rig.lines.get l
    (∃ t, exec (.lookComplete l) s = .next t ∧ s.outsideKept t ∧ s.rig.tablesKept t.rig ∧
      t.rig.slots = s.rig.slots ∧ s.rig.linesKept t.rig (fun m => m = l) ∧
      ((∀ k, x.work ≠ .look k) → s.rig.kept t.rig) ∧
      ∀ k, x.work = .look k →
        s.rig.headsKept t.rig (fun i => i = k.head) ∧
        Head.framesOnly { s.rig.heads.get k.head with move := (s.rig.heads.get k.head).move.map fun m =>
          { m with darkSent := m.darkSent || decide (k.intensity = 0) } } (t.rig.heads.get k.head) ∧
        Line.framesOnly { x with
          run := 0
          quietAt := some (s.micros + 40)
          refreshDue := if x.addrMap.get k.address = some k.head then
            upd x.refreshDue k.address ((x.refreshDue.get k.address).map fun _ => k.begun + x.refresh)
            else x.refreshDue } (t.rig.lines.get l) ∧
        (t.rig.lines.get l).work = .idle ∧ (t.rig.lines.get l).commandsSinceLook = 0 ∧
        (t.rig.lines.get l).afterDark = (if k.darkFirst then some k.head else none) ∧
        (t.rig.lines.get l).framesSincePoll = x.framesSincePoll + 1) ∧
    (∃ t, exec (.latchComplete l) s = .next t ∧ s.outsideKept t ∧ s.rig.tablesKept t.rig ∧
      t.rig.slots = s.rig.slots ∧ s.rig.linesKept t.rig (fun m => m = l) ∧
      ((∀ n e f, x.work ≠ .latch n (some e) f) → s.rig.kept t.rig) ∧
      ∀ n e f, x.work = .latch n (some e) f →
        Line.framesOnly { x with run := 0, quietAt := some (s.micros + 40) } (t.rig.lines.get l) ∧
        (t.rig.lines.get l).work = .idle ∧
        (∀ a i m, x.addrMap.get a = some i → (s.rig.heads.get i).move = some m → m.state = .staged →
          m.latch = some n →
          Head.framesOnly { s.rig.heads.get i with
            accepted := some ⟨m.leg.target, m.leg.seq⟩, settled := false
            hull := some (match (s.rig.heads.get i).hull with
              | some b => b.cover m.leg.target.box | none => m.leg.target.box)
            move := some { m with
              state := .travelling, deadline := some (s.now + 2 * m.travel.getD 0 + 1000) } }
            (t.rig.heads.get i)) ∧
        (∀ i, (∀ m, (s.rig.heads.get i).move = some m → m.state ≠ .staged ∨ m.latch ≠ some n ∨
            ∀ a, x.addrMap.get a ≠ some i) →
          Head.framesOnly (s.rig.heads.get i) (t.rig.heads.get i))) ∧
    (∃ t, exec (.attemptSent l) s = .next t ∧ s.outsideKept t ∧ s.rig.tablesKept t.rig ∧
      t.rig.slots = s.rig.slots ∧ s.rig.headsKept t.rig (fun _ => False) ∧ s.rig.linesKept t.rig (fun m => m = l) ∧
      ((∀ e c, x.work = .exchange e → e.phase ≠ .transmitting c) → s.rig.kept t.rig) ∧
      ∀ e c, x.work = .exchange e → e.phase = .transmitting c →
        Line.framesOnly { x with run := 0, quietAt := some (s.micros + 40) } (t.rig.lines.get l) ∧
        (t.rig.lines.get l).work = .exchange { e with phase := .window (s.micros + 400) } ∧
        (t.rig.lines.get l).framesSincePoll = x.framesSincePoll + 1)

/-- A reply window closes with no reply: the line and the head count a miss; the next attempt begins while attempts are
left; a head missed six times in a row is LOST, its move ended LOST and counted FAILED, its MOTION and LAMP commands gone
and the identification timer set; an AIM without an answer ends its move FAILED, and an IDENT without one sets the timer
(R9, R13, R14, R73, R96, R97, R102 to R104, R117, R146). That the window, a µs count, closes when REPLY_WINDOW_CLOSE comes
at or after its end, that the row changes nothing before it or without a window, and that an empty window leaves the line
quiet where nothing else keeps it from that, are the model's choices (log 2, log 13, log 14). -/
def Obligations.ReplyWindowCloses : Prop :=
  ∀ (s : State) (l : LineIx),
    let x := s.rig.lines.get l
    ∃ t, exec (.replyWindowClose l) s = .next t ∧ s.outsideKept t ∧ s.rig.tablesKept t.rig ∧
      ((∀ e c, x.work = .exchange e → e.phase = .window c → s.micros < c) → s.rig.kept t.rig) ∧
      ∀ e c, x.work = .exchange e → e.phase = .window c → c ≤ s.micros →
        let atOnce := x.state = .running ∧ x.quietAt.getD 0 ≤ c
        (t.rig.lines.get l).checkErrors = x.checkErrors ∧
        s.attemptMissed t l e (.exchange { e with
          attempts := if atOnce then e.attempts + 1 else e.attempts
          phase := if atOnce then .transmitting x.echo else .nextAttempt })
          (e.stopped = false ∧ e.attempts < if e.kind = .poll then 1 else 3)

/-- An ACCEPT from the addressed head that echoes the frame's sequence ends the exchange: an AIM's makes the current move
TRAVELLING with its deadline, or STAGED; a STRIKE's starts the strike timer and a DOUSE's the cooling timer; a CLEAR's
leads out of FAULT to IDENTIFYING, an IDENT being requested; any good reply makes the miss run 0 and returns a LOST head
to IDENTIFYING. An ACCEPT that no longer answers the current move tells of the target the head has taken or holds staged.
The staging of a gathering's last move makes it LATCHED, with a LATCH for each line of its set, and one after that is
given a LATCH of its own. To a POLL or an IDENT an ACCEPT is a good reply alone, whatever it echoes; to another command
one with another echo is that and a failed attempt; to an exchange its head's unpatching stopped it ends the exchange
alone (R9, R13, R15, R18, R29, R41, R69 to R71, R73, R74, R83 to R85, R94, R97, R103, R104, R106, R113, R117). That
another echo to a STRIKE, DOUSE or CLEAR is a good reply for the head all the same is the model's reading (log 23); that
any other frame, one cut off, or one not begun in the window or begun while the receiver waits for quiet, is not this
event, and that the wait for quiet of R112 is 40 µs, are its choices (log 2, log 13). -/
def Obligations.AcceptReceived : Prop :=
  ∀ (s : State) (l : LineIx) (f : Reception),
    let x := s.rig.lines.get l
    ∃ t, exec (.accept l f) s = .next t ∧ s.outsideKept t ∧ s.rig.tablesKept t.rig ∧
      ((∀ e c p n, x.work = .exchange e → e.phase = .window c → c ≤ f.began + 400 → f.began ≤ c →
        x.awaitsQuiet = false → f.cut = none → decodeReply f.bytes = some p → p.address = e.address.val + 1 →
        p.body ≠ .accept n) → s.rig.kept t.rig) ∧
      ∀ e c p n, x.work = .exchange e → e.phase = .window c → c ≤ f.began + 400 → f.began ≤ c →
        x.awaitsQuiet = false → f.cut = none → decodeReply f.bytes = some p → p.address = e.address.val + 1 →
        p.body = .accept n →
        (e.orphaned = true → e.stopped = true → s.answeredToNone t l) ∧
        (e.orphaned = false →
        s.rig.dueFollows t.rig s.now e.head False ∧
        (e.kind = .poll ∨ e.kind = .ident → s.goodAlone t l e True) ∧
        (e.kind ≠ .poll → e.kind ≠ .ident → p.seq ≠ e.seq → s.goodAlone t l e False) ∧
        (p.seq = e.seq →
        let u := s.rig.heads.get e.head
        let v := t.rig.heads.get e.head
        let y := t.rig.lines.get l
        y.work = .idle ∧ y.quietAt = some (s.micros + 40) ∧ y.mirrored = x.mirrored ∧ v.missRun = 0 ∧
        (u.avail = .lost →
          Head.framesOnly { u with missRun := 0, avail := .identifying, identTimer := none } v ∧
          ∀ b, u.binding = some b → b.line = l → x.requested y b.address e.head .service (.service e.head .ident)) ∧
        (∀ a m, e.kind = .aim → e.aim = some a → u.avail = .active → u.move = some m → m.state = .onWire →
          m.leg.seq = some a.seq → a.staged = false →
          let m' := { m with
            state := .travelling, travel := some n, deadline := some (s.now + 2 * n + 1000) }
          s.rig.headsKept t.rig (fun j => j = e.head) ∧ t.rig.slots = s.rig.slots ∧
          Head.framesOnly { u with
            missRun := 0, accepted := some ⟨a.target, some a.seq⟩, settled := false, move := some m'
            hull := some (match u.hull with | some b => b.cover a.target.box | none => a.target.box) } v ∧
          (s.othersStill l → v.move = some m')) ∧
        (∀ a m k z, e.kind = .aim → e.aim = some a → u.avail = .active → u.move = some m → m.state = .onWire →
          m.leg.seq = some a.seq → a.staged = true → m.latch = some k → s.rig.slots.get k = some z →
          z.gathering.state = .gathering → 2 ≤ z.gathering.count → 0 < z.outstanding →
          let m' := { m with state := .staged, travel := some n }
          s.rig.headsKept t.rig (fun j => j = e.head) ∧
          Head.framesOnly { u with missRun := 0, move := some m' } v ∧ (s.othersStill l → v.move = some m') ∧
          t.rig.slots.get k = some { z with gathering := { z.gathering with
            count := z.gathering.count - 1, lines := upd z.gathering.lines l true } }) ∧
        (∀ a m k z, e.kind = .aim → e.aim = some a → u.avail = .active → u.move = some m → m.state = .onWire →
          m.leg.seq = some a.seq → a.staged = true → m.latch = some k → s.rig.slots.get k = some z →
          z.gathering.state = .gathering → z.gathering.count = 1 → 0 < z.outstanding →
          (∀ j, (s.rig.lines.get j).queue.length < 48) →
          t.rig.slots.get k = some { z with gathering := { z.gathering with
            state := .latched, deadline := none, count := 0, lines := upd z.gathering.lines l true } } ∧
          (s.othersStill l → v.move = some { m with state := .staged, travel := some n }) ∧
          (∀ j, z.gathering.lines.get j = true → j ≠ l → (s.rig.lines.get j).still →
            (s.rig.lines.get j).latchRequested (t.rig.lines.get j) k) ∧
          (x.state.inService = true → x.latchRequested y k)) ∧
        (∀ a m k z, e.kind = .aim → e.aim = some a → u.avail = .active → u.move = some m → m.state = .onWire →
          m.leg.seq = some a.seq → a.staged = true → m.latch = some k → s.rig.slots.get k = some z →
          z.gathering.state = .latched → 0 < z.outstanding → x.queue.length < 48 →
          t.rig.slots = s.rig.slots ∧ x.latchRequested y k ∧
          (s.othersStill l → v.move = some { m with state := .staged, travel := some n })) ∧
        (∀ a, e.kind = .aim → e.aim = some a → u.avail = .active →
          (∀ m, u.move = some m → m.state ≠ .onWire ∨ m.leg.seq ≠ some a.seq) →
          s.rig.headsKept t.rig (fun j => j = e.head) ∧ t.rig.slots = s.rig.slots ∧
          let hull := some (match u.hull with | some b => b.cover a.target.box | none => a.target.box)
          (a.staged = false → Head.framesOnly { u with
            missRun := 0, accepted := some ⟨a.target, some a.seq⟩, settled := false, hull := hull } v) ∧
          (a.staged = true → Head.framesOnly { u with missRun := 0, settled := false, hull := hull } v)) ∧
        (∀ b pr, e.kind = .strike → u.avail = .active ∨ u.avail = .fault → u.binding = some b →
          s.rig.profiles.get b.profile = some pr → pr.lamp = .discharge →
          Head.framesOnly { u with
            missRun := 0, lamp := .striking, lampTimer := some ⟨.strike, s.now + pr.strike * 1000⟩ } v) ∧
        (∀ b pr, e.kind = .douse → u.avail = .active ∨ u.avail = .fault → u.binding = some b →
          s.rig.profiles.get b.profile = some pr → pr.lamp = .discharge →
          Head.framesOnly { u with
            missRun := 0
            lamp := if 0 < pr.cooling then .cooling else .off
            lampTimer := if 0 < pr.cooling then some ⟨.cooling, s.now + pr.cooling * 1000⟩ else none
            strikePending := if 0 < pr.cooling then
              u.strikePending ||
                (s.rig.lines.get b.line).holds b.address e.head (fun d => d == .lamp e.head .strike)
              else false } v) ∧
        ((u.avail ≠ .active ∧ u.avail ≠ .fault) ∨ (e.kind = .aim ∧ u.avail = .fault) ∨
          (e.kind = .clear ∧ u.avail = .active) → s.goodAlone t l e True) ∧
        (e.kind = .clear → u.avail = .fault →
          Head.framesOnly { u with
            missRun := 0, avail := .identifying, identTimer := none, guard := { u.guard with fault := false } } v ∧
          ∀ b, u.binding = some b → b.line = l → x.requested y b.address e.head .service (.service e.head .ident))))

/-- A REFUSE that echoes the frame's sequence ends the exchange: an AIM's ends the current move HEAD_REFUSED, counted
REFUSED, with the reason kept, where the head is and whether it is settled staying and TRANSIT removed from a settled one,
MOTOR leading to FAULT; a STRIKE's puts an ACTIVE head in FAULT with cause LAMP; a DOUSE's sets the reason alone; a
CLEAR's leaves the head in FAULT; a LOST head returns to IDENTIFYING; a guard-reason set that becomes or stops being
empty, be it only until FAULT enters, makes the refresh due at once. To a POLL or an IDENT a REFUSE is a good reply alone,
whatever it echoes; to another command one with another echo is that and a failed attempt; to an exchange its head's
unpatching stopped it ends the exchange alone (R9, R15, R16, R18, R29, R41, R68, R69, R72 to R74, R80, R97, R103, R104,
R106, R113, R117, R146). That another echo to a STRIKE, DOUSE or CLEAR is a good reply for the head all the same is the
model's reading (log 23); that any other frame, one cut off, or one not begun in the window or begun while the receiver
waits for quiet, is not this event, and that the wait for quiet of R112 is 40 µs, are its choices (log 2, log 13). -/
def Obligations.RefuseReceived : Prop :=
  ∀ (s : State) (l : LineIx) (f : Reception),
    let x := s.rig.lines.get l
    ∃ t, exec (.refuse l f) s = .next t ∧ s.outsideKept t ∧ s.rig.tablesKept t.rig ∧
      ((∀ e c p r, x.work = .exchange e → e.phase = .window c → c ≤ f.began + 400 → f.began ≤ c →
        x.awaitsQuiet = false → f.cut = none → decodeReply f.bytes = some p → p.address = e.address.val + 1 →
        p.body ≠ .refuse r) → s.rig.kept t.rig) ∧
      ∀ e c p r, x.work = .exchange e → e.phase = .window c → c ≤ f.began + 400 → f.began ≤ c →
        x.awaitsQuiet = false → f.cut = none → decodeReply f.bytes = some p → p.address = e.address.val + 1 →
        p.body = .refuse r →
        (e.orphaned = true → e.stopped = true → s.answeredToNone t l) ∧
        (e.orphaned = false →
        s.rig.dueFollows t.rig s.now e.head ((s.rig.heads.get e.head).emptied (t.rig.heads.get e.head)) ∧
        (e.kind = .poll ∨ e.kind = .ident → s.goodAlone t l e True) ∧
        (e.kind ≠ .poll → e.kind ≠ .ident → p.seq ≠ e.seq → s.goodAlone t l e False) ∧
        (p.seq = e.seq →
        let u := s.rig.heads.get e.head
        let v := t.rig.heads.get e.head
        let y := t.rig.lines.get l
        y.work = .idle ∧ y.quietAt = some (s.micros + 40) ∧ y.mirrored = x.mirrored ∧ v.missRun = 0 ∧
        (u.avail = .lost →
          Head.framesOnly { u with missRun := 0, avail := .identifying, identTimer := none } v ∧
          ∀ b, u.binding = some b → b.line = l → x.requested y b.address e.head .service (.service e.head .ident)) ∧
        (∀ a m, e.kind = .aim → e.aim = some a → u.avail = .active → u.move = some m → m.state = .onWire →
          m.leg.seq = some a.seq →
          v.move = none ∧ v.lastOutcome = some .headRefused ∧ v.accepted = u.accepted ∧
          v.lastRefused = (match r with | .range => .headRange | .motor => .headMotor | .lamp => .lamp) ∧
          v.avail = (if r = .motor then .fault else .active) ∧
          v.faultCause = (if r = .motor then .motor else u.faultCause) ∧
          v.guard.fault = (u.guard.fault || decide (r = .motor)) ∧
          v.settled = u.settled ∧ v.hull = u.hull ∧ v.guard.transit = (u.guard.transit && !u.settled) ∧
          v.guard.parked = u.guard.parked ∧ v.guard.blackout = u.guard.blackout ∧
          (s.rig.noGathering → s.rig.moveCounted t.rig e.head Counts.oneRefused)) ∧
        (e.kind = .clear ∨ (u.avail ≠ .active ∧ u.avail ≠ .fault) ∨ (e.kind = .aim ∧ u.avail = .fault) →
          s.goodAlone t l e True) ∧
        (∀ a, e.kind = .aim → e.aim = some a → u.avail = .active →
          (∀ m, u.move = some m → m.state ≠ .onWire ∨ m.leg.seq ≠ some a.seq) →
          Head.framesOnly { u with missRun := 0 } v) ∧
        (e.kind = .strike → u.avail = .active →
          v.avail = .fault ∧ v.faultCause = .lamp ∧ v.lastRefused = .lamp ∧ v.lamp = u.lamp ∧ v.move = none ∧
          v.guard.fault = true ∧ (u.move.isSome = true → v.lastOutcome = some .fault) ∧
          (s.rig.noGathering → s.rig.moveCounted t.rig e.head Counts.oneFailed)) ∧
        (e.kind = .strike ∧ u.avail = .fault ∨ e.kind = .douse ∧ (u.avail = .active ∨ u.avail = .fault) →
          Head.framesOnly { u with missRun := 0, lastRefused := .lamp } v)))

/-- A STATUS from the addressed head: a fault code puts an ACTIVE head in FAULT with that cause, or replaces the cause in
FAULT; a settlement makes the head settled at its accepted target and ends the move that reached its last leg, or begins
its second; any other leaves every field, but that the miss run is 0; a LOST head returns to IDENTIFYING; a guard-reason
set that becomes or stops being empty, be it only until PARKED enters, makes the refresh due at once (R15, R16, R29, R56,
R68, R76, R77, R97, R123, R146). To a command other than a POLL or an IDENT a STATUS is a failed attempt, and to an
exchange its head's unpatching stopped it ends the exchange alone (R69, R103, R104, R106, R113). That to an AIM it settles
nothing is the model's reading of R69 and R76 (log 22); that any other frame, one cut off, or one not begun in the window
or begun while the receiver waits for quiet, is not this event, and that the wait for quiet of R112 is 40 µs, are its
choices (log 2, log 13). -/
def Obligations.StatusReceived : Prop :=
  ∀ (s : State) (l : LineIx) (f : Reception),
    let x := s.rig.lines.get l
    ∃ t, exec (.status l f) s = .next t ∧ s.outsideKept t ∧ s.rig.tablesKept t.rig ∧
      ((∀ e c p q, x.work = .exchange e → e.phase = .window c → c ≤ f.began + 400 → f.began ≤ c →
        x.awaitsQuiet = false → f.cut = none → decodeReply f.bytes = some p → p.address = e.address.val + 1 →
        p.body ≠ .status q) → s.rig.kept t.rig) ∧
      ∀ e c p q, x.work = .exchange e → e.phase = .window c → c ≤ f.began + 400 → f.began ≤ c →
        x.awaitsQuiet = false → f.cut = none → decodeReply f.bytes = some p → p.address = e.address.val + 1 →
        p.body = .status q →
        (e.orphaned = true → e.stopped = true → s.answeredToNone t l) ∧
        (e.orphaned = false →
        s.rig.dueFollows t.rig s.now e.head ((s.rig.heads.get e.head).emptied (t.rig.heads.get e.head)) ∧
        (e.kind ≠ .poll → e.kind ≠ .ident → e.stopped = false → e.attempts < 3 →
          ((s.rig.heads.get e.head).avail = .active → q.fault = .none) →
          (t.rig.lines.get l).work = .exchange { e with phase := .nextAttempt } ∧
          (t.rig.lines.get l).quietAt = some (s.micros + 40) ∧
          ((s.rig.heads.get e.head).avail = .active → e.kind = .aim → q.fault = .none →
            Head.framesOnly { s.rig.heads.get e.head with missRun := 0 } (t.rig.heads.get e.head))) ∧
        (e.kind = .poll →
        let u := s.rig.heads.get e.head
        let v := t.rig.heads.get e.head
        let y := t.rig.lines.get l
        let settles := ∃ a, u.accepted = some a ∧ a.seq = some q.seq ∧ q.present = true ∧ q.reached = true
        y.work = .idle ∧ y.quietAt = some (s.micros + 40) ∧ y.mirrored = x.mirrored ∧ v.missRun = 0 ∧
        (u.avail = .lost →
          Head.framesOnly { u with missRun := 0, avail := .identifying, identTimer := none } v ∧
          ∀ b, u.binding = some b → b.line = l → x.requested y b.address e.head .service (.service e.head .ident)) ∧
        (u.avail = .active → q.fault ≠ .none →
          v.avail = .fault ∧ v.faultCause = q.fault ∧ v.guard.fault = true ∧ v.move = none ∧
          (∀ m, u.move = some m → v.lastOutcome = some .fault) ∧
          (s.rig.noGathering → s.rig.moveCounted t.rig e.head Counts.oneFailed)) ∧
        (u.avail = .fault → Head.framesOnly { u with
          missRun := 0, faultCause := if q.fault = .none then u.faultCause else q.fault } v) ∧
        (u.avail = .active → q.fault = .none → ¬settles → Head.framesOnly { u with missRun := 0 } v) ∧
        (∀ a, u.avail = .active → q.fault = .none → settles → u.accepted = some a →
          v.settled = true ∧ v.hull = some ⟨a.point.pan, a.point.pan, a.point.tilt, a.point.tilt⟩ ∧
          v.accepted = u.accepted ∧ v.avail = .active ∧
          v.guard.parked = (s.rig.candidates e.head).any (fun z => z.policy == .darken && z.box.inside a.point) ∧
          (∀ m, u.move = some m → m.state = .travelling → m.leg.seq = a.seq →
            (m.current = .second ∨ m.leg2 = none →
              v.move = none ∧ v.lastOutcome = some .reached ∧ v.guard.transit = false ∧
              (s.rig.noGathering → s.rig.moveCounted t.rig e.head Counts.oneReached)) ∧
            (m.current = .first → m.leg2 ≠ none → s.othersStill l →
              v.move = some { m with
                current := .second, state := .planned, staged := false, travel := none, deadline := none
                attempts := 0 } ∧
              v.guard.transit = (u.guard.transit && m.darken))) ∧
          (∀ m, u.move = some m → m.state ≠ .travelling ∨ m.leg.seq ≠ a.seq →
            (∃ n, v.move = some n ∧ n.plain = m.plain) ∧ v.guard.transit = (u.guard.transit && m.darken)))))

/-- A DESCRIPTOR from the addressed head in IDENTIFYING or MISMATCH: another model code leads to MISMATCH, the profile's
to ACTIVE with the reported position, rest and lamp taken, a pending strike acted on by what the lamp is, and a catch-up
move to the winning POSITION, or to where the head is when it has none and is not at rest; to a LOST head it is the way
back to IDENTIFYING, in a state that is driven it is a good reply alone, and to an exchange its head's unpatching stopped
it ends the exchange alone; the refresh of a head that becomes ACTIVE is due at once (R9 to R13, R15, R29, R59, R61, R97,
R104, R106, R113). That a DESCRIPTOR to any command identifies, and that a lamp found COOLING keeps a queued STRIKE as
pending, are the model's readings (log 25, log 29); that any other frame, one cut off, or one not begun in the window or
begun while the receiver waits for quiet, is not this event, and that the wait for quiet of R112 is 40 µs, are its choices
(log 2, log 13). -/
def Obligations.DescriptorReceived : Prop :=
  ∀ (s : State) (l : LineIx) (f : Reception),
    let x := s.rig.lines.get l
    ∃ t, exec (.descriptor l f) s = .next t ∧ s.outsideKept t ∧ s.rig.tablesKept t.rig ∧
      ((∀ e c p d, x.work = .exchange e → e.phase = .window c → c ≤ f.began + 400 → f.began ≤ c →
        x.awaitsQuiet = false → f.cut = none → decodeReply f.bytes = some p → p.address = e.address.val + 1 →
        p.body ≠ .descriptor d) → s.rig.kept t.rig) ∧
      (∀ e c p d, x.work = .exchange e → e.phase = .window c → c ≤ f.began + 400 → f.began ≤ c →
        x.awaitsQuiet = false → f.cut = none → decodeReply f.bytes = some p → p.address = e.address.val + 1 →
        p.body = .descriptor d → e.orphaned = true → e.stopped = true → s.answeredToNone t l) ∧
      ∀ e c p d b pr, x.work = .exchange e → e.phase = .window c → c ≤ f.began + 400 → f.began ≤ c →
        x.awaitsQuiet = false → f.cut = none → decodeReply f.bytes = some p → p.address = e.address.val + 1 →
        p.body = .descriptor d → e.orphaned = false →
        (s.rig.heads.get e.head).binding = some b → s.rig.profiles.get b.profile = some pr →
        ((s.rig.heads.get e.head).move.isSome = true → (s.rig.heads.get e.head).avail = .active) →
        let u := s.rig.heads.get e.head
        let v := t.rig.heads.get e.head
        let asked := u.avail = .identifying ∨ u.avail = .mismatch
        let native (g : Sign) (a : Int) : Int := match g with | .plus => a | .minus => -a | .held => 0
        let at_ : Point := ⟨native b.panSign d.native.pan, native b.tiltSign d.native.tilt⟩
        let lit := pr.lamp = .discharge ∧ d.lit = true
        let cooling := pr.lamp = .discharge ∧ d.lit = false ∧ 0 < d.lockout
        let off := pr.lamp = .discharge ∧ d.lit = false ∧ d.lockout = 0
        (t.rig.lines.get l).quietAt = some (s.micros + 40) ∧ v.missRun = 0 ∧
        s.rig.dueFollows t.rig s.now e.head False ∧
        (e.kind = .ident ∨ e.kind = .poll → (t.rig.lines.get l).work = .idle) ∧
        (asked → d.model ≠ pr.model →
          Head.framesOnly { u with missRun := 0, avail := .mismatch, identTimer := some (s.now + 1000) } v) ∧
        (asked → d.model = pr.model →
          v.avail = .active ∧ v.identTimer = none ∧ v.accepted = some ⟨at_, none⟩ ∧ v.settled = d.atRest ∧
          v.hull = some ⟨at_.pan, at_.pan, at_.tilt, at_.tilt⟩ ∧
          (d.atRest = true → v.guard.parked =
            (s.rig.candidates e.head).any (fun z => z.policy == .darken && z.box.inside at_)) ∧
          (d.atRest = false → v.guard.parked = u.guard.parked) ∧
          (pr.lamp = .none → v.lamp = u.lamp ∧ v.lampTimer = u.lampTimer ∧ v.strikePending = u.strikePending) ∧
          (lit → v.lamp = .lit ∧ v.lampTimer = none ∧ v.strikePending = false) ∧
          (cooling → v.lamp = .cooling ∧ v.lampTimer = some ⟨.cooling, s.now + d.lockout * 1000⟩ ∧
            v.strikePending = (u.strikePending ||
              (s.rig.lines.get b.line).holds b.address e.head (fun c => c == .lamp e.head .strike))) ∧
          (off → v.lamp = .off ∧ v.lampTimer = none ∧ v.strikePending = false) ∧
          let found : Head := { u with
            avail := .active, accepted := some ⟨at_, none⟩, settled := d.atRest, hull := some at_.box
            guard := { u.guard with transit := u.guard.transit && !d.atRest } }
          let goal (target : Point) (time : Nat) :=
            found.planned v (plan pr b (s.rig.candidates e.head) at_.box target time) none false
          (∀ w, u.livePos.or u.showPos = some w →
            (d.atRest = false ∨ b.heldPoint w.target ≠ at_ → goal (b.heldPoint w.target) w.moveTime) ∧
            (d.atRest = true → b.heldPoint w.target = at_ → v.move = none)) ∧
          (u.livePos.or u.showPos = none →
            (d.atRest = false → goal (b.heldPoint at_) 0) ∧ (d.atRest = true → v.move = none))) ∧
        (u.avail = .lost → e.kind = .ident ∨ e.kind = .poll →
          Head.framesOnly { u with missRun := 0, avail := .identifying, identTimer := none } v ∧
          (b.line = l → x.requested (t.rig.lines.get l) b.address e.head .service (.service e.head .ident))) ∧
        (u.avail = .active ∨ u.avail = .fault → e.kind = .poll → Head.framesOnly { u with missRun := 0 } v)

/-- A bad reply, be it cut off or failing a check, counts a check error and a miss and is a miss for its head; like an
empty window it leads to the next attempt once the line is quiet, to the head's loss, or to an AIM's or IDENT's
exhaustion; a frame whose break did not begin in an open window counts a check error alone, but for one that began in a
window a SOFT_RESET closed. After a byte with a bad stop bit and after a length byte above 16 the part waits until the
line is quiet: what begins before is no reply and counts nothing. No reception shortens a wait for quiet (R9, R13, R14,
R73, R88, R96, R97, R102 to R104, R106, R110, R112, R113, R117, R146). How long a window a SOFT_RESET closed is remembered
is the model's reading (log 21), when a line can be quiet after a reception its part of R112 (log 13), and that a
reception of the other row's kind changes nothing its choice (log 2). -/
def Obligations.BadReplyAndStrayFrame : Prop :=
  ∀ (s : State) (l : LineIx) (f : Reception),
    let x := s.rig.lines.get l
    let quietAt := some (max (x.quietAt.getD 0)
      (if f.cut = some .quiet ∧ ¬(4 ≤ f.bytes.length ∧ 16 < rd8 f.bytes 3) then s.micros else s.micros + 40))
    let waits := (4 ≤ f.bytes.length ∧ 16 < rd8 f.bytes 3) ∨ f.cut = some .stopBit
    (∃ t, exec (.badReply l f) s = .next t ∧ s.outsideKept t ∧ s.rig.tablesKept t.rig ∧
      ((∀ e c, x.work = .exchange e → e.phase = .window c → f.began + 400 < c ∨ c < f.began) ∨
        x.awaitsQuiet = true → s.rig.kept t.rig) ∧
      ∀ e c, x.work = .exchange e → e.phase = .window c → c ≤ f.began + 400 → f.began ≤ c → x.awaitsQuiet = false →
        ((∃ p, f.cut = none ∧ decodeReply f.bytes = some p ∧ p.address = e.address.val + 1) → s.rig.kept t.rig) ∧
        ((∀ p, f.cut = none → decodeReply f.bytes = some p → p.address ≠ e.address.val + 1) →
          (t.rig.lines.get l).checkErrors = x.checkErrors.bump ∧ (t.rig.lines.get l).misses = x.misses.bump ∧
          (t.rig.lines.get l).collisions = x.collisions ∧
          (t.rig.lines.get l).quietAt = quietAt ∧ ((t.rig.lines.get l).awaitsQuiet = true ↔ waits) ∧
          (e.stopped = true ∨ (if e.kind = .poll then 1 else 3) ≤ e.attempts → (t.rig.lines.get l).work = .idle) ∧
          s.attemptMissed t l e (.exchange { e with phase := .nextAttempt }) True ∧
          (t.rig.heads.get e.head).missTotal = (if e.orphaned then (s.rig.heads.get e.head).missTotal
            else (s.rig.heads.get e.head).missTotal.bump))) ∧
    ∃ t, exec (.strayFrame l f) s = .next t ∧ s.outsideKept t ∧ s.rig.tablesKept t.rig ∧
      t.rig.slots = s.rig.slots ∧ s.rig.headsKept t.rig (fun _ => False) ∧ s.rig.linesKept t.rig (fun m => m = l) ∧
      let y := t.rig.lines.get l
      let outside := x.work.transmitting = false ∧ (x.awaitsQuiet = true ∨
        ∀ e c, x.work = .exchange e → e.phase = .window c → f.began + 400 < c ∨ c < f.began)
      let uncounted := x.awaitsQuiet = true ∨ ∃ c, x.cutWindow = some c ∧ f.began ≤ c
      (¬outside → s.rig.kept t.rig) ∧
      (outside → (y.awaitsQuiet = true ↔ x.awaitsQuiet = true ∨ waits) ∧
        (uncounted → y = { x with quietAt := quietAt, awaitsQuiet := y.awaitsQuiet }) ∧
        (¬uncounted → y = { x with
          quietAt := quietAt, awaitsQuiet := y.awaitsQuiet, checkErrors := x.checkErrors.bump }))

/-! ### Rules as functions -/

/-- The range check: a target is refused with reason RANGE exactly when its head-native pan or tilt, a held axis counting
as 0, lies outside the profile's range (R62). A target within it goes by its path verdict: PATH refuses it, DIRECT gives
one leg, DETOUR two, and refuses it with PATH when the waypoint is out of range; each leg's time is at least what the
profile's speeds need from the hull, or from the waypoint, and at least what was asked for in all (R63, R64). -/
def Obligations.RangeCheck : Prop :=
  (∀ (p : Profile) (b : Binding) (cs : List Sector) (hull : Box) (target : Point) (request : Nat),
    let native (g : Sign) (a : Int) : Int := match g with | .plus => a | .minus => -a | .held => 0
    let pan := native b.panSign target.pan
    let tilt := native b.tiltSign target.tilt
    plan p b cs hull target request = .refused .range ↔
      ¬(p.panMin ≤ pan ∧ pan ≤ p.panMax ∧ p.tiltMin ≤ tilt ∧ tilt ≤ p.tiltMax)) ∧
  ∀ (p : Profile) (b : Binding) (cs : List Sector) (hull : Box) (target : Point) (request : Nat),
    let native (g : Sign) (a : Int) : Int := match g with | .plus => a | .minus => -a | .held => 0
    let reaches (q : Point) := p.panMin ≤ native b.panSign q.pan ∧ native b.panSign q.pan ≤ p.panMax ∧
      p.tiltMin ≤ native b.tiltSign q.tilt ∧ native b.tiltSign q.tilt ≤ p.tiltMax
    let far (lo hi a : Int) : Nat := max (a - lo).natAbs (a - hi).natAbs
    let axis (d speed n : Nat) := d * 10 ≤ n * speed ∧ ∀ m, d * 10 ≤ m * speed → n ≤ m
    let least (x : Box) (q : Point) (n : Nat) := ∃ i j, axis (far x.panMin x.panMax q.pan) p.panSpeed i ∧
      axis (far x.tiltMin x.tiltMax q.tilt) p.tiltSpeed j ∧ n = max i j
    0 < p.panSpeed → 0 < p.tiltSpeed → reaches target →
    (verdict cs b hull target = .path → plan p b cs hull target request = .refused .path) ∧
    (∀ d, verdict cs b hull target = .direct d →
      ∃ n, least hull target n ∧ plan p b cs hull target request = .legs ⟨target, max request n, none⟩ none d) ∧
    ∀ w d, verdict cs b hull target = .detour w d →
      (¬reaches w → plan p b cs hull target request = .refused .path) ∧
      (reaches w → ∃ n1 n2, least hull w n1 ∧ least w.box target n2 ∧
        let total := max request (max (2 * n1 - 1) (2 * n2))
        plan p b cs hull target request =
          .legs ⟨w, total - total / 2, none⟩ (some ⟨target, total / 2, none⟩) d)

/-- When PATH has not been given and the direct box overlaps no candidate DETOUR sector the verdict is DIRECT, its darken
flag set when the box overlaps a candidate DARKEN sector and clear otherwise (R53). PATH is given for a target inside a
DETOUR sector and for a direct box that overlaps a REFUSE sector; and where the box overlaps DETOUR sectors the lowest is
tried, its waypoint with held axes as 0: PATH when a leg box overlaps a REFUSE or DETOUR sector, and otherwise DETOUR, dark
when a leg box overlaps a DARKEN sector (R52, R54, R55). A point lies inside a box, two boxes overlap, and a box covers
two, with both ends of every range included (R50); the candidates are the armed sectors of the head's membership list, in
its order (R51). -/
def Obligations.DirectVerdict : Prop :=
  (∀ (a b : Box) (p : Point),
    (a.inside p = true ↔ a.panMin ≤ p.pan ∧ p.pan ≤ a.panMax ∧ a.tiltMin ≤ p.tilt ∧ p.tilt ≤ a.tiltMax) ∧
    (a.overlaps b = true ↔
      a.panMin ≤ b.panMax ∧ b.panMin ≤ a.panMax ∧ a.tiltMin ≤ b.tiltMax ∧ b.tiltMin ≤ a.tiltMax) ∧
    (a.panMin ≤ a.panMax → b.panMin ≤ b.panMax → a.tiltMin ≤ a.tiltMax → b.tiltMin ≤ b.tiltMax →
      (a.overlaps b = true ↔ ∃ q : Point, a.inside q = true ∧ b.inside q = true)) ∧
    a.cover b = ⟨min a.panMin b.panMin, max a.panMax b.panMax, min a.tiltMin b.tiltMin, max a.tiltMax b.tiltMax⟩ ∧
    p.box = ⟨p.pan, p.pan, p.tilt, p.tilt⟩) ∧
  (∀ (r : Rig) (h : HeadIx),
    r.candidates h = ((r.members.get h).filterMap fun k => r.sectors.get k).filter Sector.armed) ∧
  (∀ (cs : List Sector) (b : Binding) (hull : Box) (target : Point), verdict cs b hull target ≠ .path →
    let direct := hull.cover target.box
    (∀ x ∈ cs, x.box.overlaps direct = true → ∀ w, x.policy ≠ .detour w) →
    ∃ d, verdict cs b hull target = .direct d ∧
      (d = true ↔ ∃ x ∈ cs, x.policy = .darken ∧ x.box.overlaps direct = true)) ∧
  ∀ (cs : List Sector) (b : Binding) (hull : Box) (target : Point),
    let direct := hull.cover target.box
    let given := (∃ x ∈ cs, (∃ w, x.policy = .detour w) ∧ x.box.inside target = true) ∨
      ∃ x ∈ cs, x.policy = .refuse ∧ x.box.overlaps direct = true
    (given → verdict cs b hull target = .path) ∧
    (¬given → (∀ x ∈ cs, x.box.overlaps direct = true → ∀ w, x.policy ≠ .detour w) →
      verdict cs b hull target ≠ .path) ∧
    ∀ before x after w, cs = before ++ x :: after → ¬given → x.policy = .detour w → x.box.overlaps direct = true →
      (∀ y ∈ before, y.box.overlaps direct = true → ∀ w', y.policy ≠ .detour w') →
      let point := b.heldPoint w
      let meets (y : Sector) := y.box.overlaps (hull.cover point.box) = true ∨
        y.box.overlaps (point.box.cover target.box) = true
      ((∃ y ∈ cs, y.policy ≠ .darken ∧ meets y) → verdict cs b hull target = .path) ∧
      ((∀ y ∈ cs, meets y → y.policy = .darken) →
        ∃ d, verdict cs b hull target = .detour point d ∧ (d = true ↔ ∃ y ∈ cs, y.policy = .darken ∧ meets y))

/-- A fade evaluated: its target once its duration has run, and before that the start plus the exact product of difference
and elapsed time divided by the duration, rounded toward zero; six times over for COLOUR (R26). The COLOUR output is the
LIVE cell, else the release transition toward the SHOW cell's value, else the SHOW cell, else zeros; the BEAM output the
larger of the LIVE and SHOW cells, else the transition, else the SHOW cell, else 0 (R27, R28, R30). The frames that carry
them, and the others the part sends, are their bytes as 11.6 lays them out, a LOOK's components in wire-slot order, shifted
and cut to their width (R6), the CRC behind them high byte first (R114, R118, R177, R180). That an AIM's staged byte is 1
when set is the model's choice, and of no statement (log 37). -/
def Obligations.FadeEvaluated : Prop :=
  (∀ (c : ColourCell) (q : BeamCell) (u : Head) (now : Nat),
    let value (start target begun duration : Nat) (v : Nat) : Prop :=
      (duration = 0 ∨ duration ≤ now - begun → v = target) ∧
      (now - begun < duration →
        (v : Int) = start + Int.tdiv (((target : Int) - start) * ((now - begun : Nat) : Int)) duration)
    let showBeam := match u.showBeam with | some z => z.value now | none => 0
    let showColour (k : Fin 6) := match u.showCol with | some z => (z.value now).get k | none => 0
    value q.fade.start q.target q.fade.begun q.fade.duration (q.value now) ∧
    (∀ k : Fin 6, value (c.fade.start.get k) (c.target.get k) c.fade.begun c.fade.duration ((c.value now).get k)) ∧
    (∀ z, u.liveCol = some z → u.colourOutput now = z.value now) ∧
    (∀ g (k : Fin 6), u.liveCol = none → u.colRelease = some g →
      value (g.start.get k) (showColour k) g.begun g.duration ((u.colourOutput now).get k)) ∧
    (∀ k : Fin 6, u.liveCol = none → u.colRelease = none → (u.colourOutput now).get k = showColour k) ∧
    (∀ z, u.liveBeam = some z → u.beamOutput now = max (z.value now) showBeam) ∧
    (∀ g, u.liveBeam = none → u.beamRelease = some g →
      value g.start showBeam g.begun g.duration (u.beamOutput now)) ∧
    (u.liveBeam = none → u.beamRelease = none → u.beamOutput now = showBeam)) ∧
  (∀ b : List Byte, crc16 b =
    (b.flatMap fun y => [y.getLsbD 7, y.getLsbD 6, y.getLsbD 5, y.getLsbD 4, y.getLsbD 3, y.getLsbD 2, y.getLsbD 1,
      y.getLsbD 0]).foldl (fun (c : BitVec 16) bit => if c.msb = bit then c <<< 1 else (c <<< 1) ^^^ 0x1021#16) 0xFFFF#16) ∧
  crc16 [0x31#8, 0x32#8, 0x33#8, 0x34#8, 0x35#8, 0x36#8, 0x37#8, 0x38#8, 0x39#8] = 0x29B1#16 ∧
  ∀ (a : AddrIx) (seq : Seq) (native : Point) (time : Nat) (staged : Bool) (n : SlotIx) (k : ExKind) (cs : List Component)
    (out : Colour) (intensity : Nat),
    let sent (f : List Byte) (address kind : Nat) (seq : Seq) (length : Nat) :=
      f.length = length + 6 ∧ rd8 f 0 = address ∧ rd8 f 1 = kind ∧ rd8 f 2 = seq.toNat ∧ rd8 f 3 = length ∧
      256 * rd8 f (length + 4) + rd8 f (length + 5) = (crc16 (f.take (length + 4))).toNat
    let aim := aimFrame a seq native time staged (some n)
    let look := lookFrame a cs out intensity
    let bytes (j : Fin 6) : List Byte := match cs[j.val]? with
      | some c =>
        let v := out.get j / 2 ^ c.shift
        if c.width = 16 then [BitVec.ofNat 8 (v / 256), BitVec.ofNat 8 v] else [BitVec.ofNat 8 (v / 256)]
      | none => []
    sent aim (a.val + 1) 0x01 seq 10 ∧
    (256 * rd8 aim 4 + rd8 aim 5 : Int) = native.pan % 65536 ∧ (256 * rd8 aim 6 + rd8 aim 7 : Int) = native.tilt % 65536 ∧
    rd8 aim 8 * 2 ^ 24 + rd8 aim 9 * 2 ^ 16 + rd8 aim 10 * 2 ^ 8 + rd8 aim 11 = time % 2 ^ 32 ∧
    (rd8 aim 12 ≠ 0 ↔ staged = true) ∧ rd8 aim 13 = (if staged then n.val else 0) ∧
    sent (latchFrame n) 0 0x08 0 1 ∧ rd8 (latchFrame n) 4 = n.val ∧
    sent (plainFrame a k seq) (a.val + 1) (match k with
      | .aim => 0x01 | .poll => 0x03 | .ident => 0x04 | .strike => 0x05 | .douse => 0x06 | .clear => 0x07) seq 0 ∧
    ∀ js : List (Fin 6), js.map (fun j => (cs[j.val]?).map Component.wire) = (List.range cs.length).map some →
      sent look (a.val + 1) 0x02 0 ((js.flatMap bytes).length + 2) ∧
      (look.drop 4).take ((js.flatMap bytes).length + 2) =
        js.flatMap bytes ++ [BitVec.ofNat 8 (intensity / 256), BitVec.ofNat 8 intensity]

/-! ### Steps and invariants -/

/-- A step takes the command at the front of the queue and is its execution on the state with the queue's rest. That
commands wait in a queue and are executed one a step is the model's choice (log 4). -/
def Obligations.StepRunsFront : Prop :=
  ∀ (c : Instr) (rest : List Instr) (s : State), step { s with pending := c :: rest } = exec c { s with pending := rest }

/-- Every command is carried out, in every state: none faults and none is refused. That a command sent without its event
is carried out too, changing nothing, is the model's choice (log 2). -/
def Obligations.NothingRefused : Prop := ∀ (c : Instr) (s : State), ∃ t, exec c s = .next t

/-- The invariants hold right after reset. -/
def Obligations.InvariantsAtReset : Prop :=
  State.reset.settingsInRange ∧ State.reset.cuesInOrder ∧ State.reset.listFits ∧ State.reset.queuesFit ∧
    State.reset.rig.membersSound ∧ State.reset.rig.linesSound ∧ State.reset.slotsSound

/-- Every step keeps SCAN_PERIOD and show time in their ranges (R126, R154), and each head's membership list the slots
whose sectors name it, in ascending order and at most 8 (R45). -/
def Obligations.SettingsStayInRange : Prop :=
  (∀ s t : State, s.settingsInRange → step s = .next t → t.settingsInRange) ∧
  ∀ s t : State, s.rig.membersSound → step s = .next t → t.rig.membersSound

/-- Every step keeps the pending list ordered by go-time, its tags distinct, and it and the pool within their sizes
(R138, R139). -/
def Obligations.CuesStayInOrder : Prop :=
  ∀ s t : State, s.cuesInOrder → step s = .next t → t.cuesInOrder

/-- Every step keeps the write-back list within its 128 places (R168), and, while the fixture side's tables agree, in that
only ACTIVE heads hold moves above all (R2, R20, R59; a step keeps that too, by the statement of queues), each RUNNING
slot's outstanding count the number of moves that refer to it, none referring to another slot, with each RETIRED slot's
final update listed or waiting at most once (R142, R149, R150, R169). -/
def Obligations.ListStaysInSize : Prop :=
  (∀ s t : State, s.listFits → step s = .next t → t.listFits) ∧
  ∀ s t : State, s.rig.linesSound → s.slotsSound → step s = .next t → t.slotsSound

/-- Every step keeps each line's queue within 48 commands and its latch overflow within 4 (R92, R94); and it keeps the
address maps and the bindings in agreement (R2), moves on ACTIVE heads alone (R59), heads OFFLINE exactly while their line
is out of service (R20, R21), and in each queue one command of a class for a head, none of a class that is owed, and one
LATCH of a number (R92 to R94). -/
def Obligations.QueuesStayInSize : Prop :=
  (∀ s t : State, s.queuesFit → step s = .next t → t.queuesFit) ∧
  ∀ s t : State, s.rig.linesSound → step s = .next t → t.rig.linesSound

end Statements
end

