-- ==== Sys2Proof/Laws/State.lean ====
section
/-! SUPPORT. What the small operations on the state change and leave, one lemma per field per update, and reading a table
after one of its places was replaced. -/

namespace Sys2Proof.Machine

/-! ### Tables -/

theorem get_eq_getElem {α : Type} {n : Nat} (v : Vector α n) (i : Fin n) : v.get i = v[i.val] := rfl

theorem upd_get {α : Type} {n : Nat} (v : Vector α n) (i j : Fin n) (x : α) :
    (upd v i x).get j = if j = i then x else v.get j := by
  simp only [upd, get_eq_getElem, Vector.getElem_set, Fin.ext_iff, eq_comm]

@[simp] theorem upd_get_same {α : Type} {n : Nat} (v : Vector α n) (i : Fin n) (x : α) : (upd v i x).get i = x := by
  simp [upd_get]

theorem upd_get_other {α : Type} {n : Nat} (v : Vector α n) {i j : Fin n} (x : α) (h : j ≠ i) :
    (upd v i x).get j = v.get j := by
  simp [upd_get, h]

@[simp] theorem replicate_get {α : Type} {n : Nat} (x : α) (i : Fin n) : (Vector.replicate n x).get i = x := by
  simp [get_eq_getElem]

@[simp] theorem ofFn_get {α : Type} {n : Nat} (f : Fin n → α) (i : Fin n) : (Vector.ofFn f).get i = f i := by
  simp [get_eq_getElem]

@[simp] theorem map_get {α β : Type} {n : Nat} (f : α → β) (v : Vector α n) (i : Fin n) :
    (v.map f).get i = f (v.get i) := by
  simp [get_eq_getElem]


/-! ### A rig put in place -/

@[simp] theorem withRig_pending (s : State) (r : Rig) : (s.withRig r).pending = s.pending := rfl
@[simp] theorem withRig_micros (s : State) (r : Rig) : (s.withRig r).micros = s.micros := rfl
@[simp] theorem withRig_regs (s : State) (r : Rig) : (s.withRig r).regs = s.regs := rfl
@[simp] theorem withRig_chain (s : State) (r : Rig) : (s.withRig r).chain = s.chain := rfl
@[simp] theorem withRig_bus (s : State) (r : Rig) : (s.withRig r).bus = s.bus := rfl
@[simp] theorem withRig_wb (s : State) (r : Rig) : (s.withRig r).wb = s.wb := rfl
@[simp] theorem withRig_clock (s : State) (r : Rig) : (s.withRig r).clock = s.clock := rfl
@[simp] theorem withRig_cues (s : State) (r : Rig) : (s.withRig r).cues = s.cues := rfl
@[simp] theorem withRig_rig (s : State) (r : Rig) : (s.withRig r).rig = r := rfl

/-! ### Causes -/

@[simp] theorem latchCause_pending (s : State) (c : Cause) : (s.latchCause c).pending = s.pending := rfl
@[simp] theorem latchCause_micros (s : State) (c : Cause) : (s.latchCause c).micros = s.micros := rfl
@[simp] theorem latchCause_regs (s : State) (c : Cause) : (s.latchCause c).regs = { s.regs with latch := s.regs.latch.add c } := rfl
@[simp] theorem latchCause_chain (s : State) (c : Cause) : (s.latchCause c).chain = s.chain := rfl
@[simp] theorem latchCause_bus (s : State) (c : Cause) : (s.latchCause c).bus = s.bus := rfl
@[simp] theorem latchCause_wb (s : State) (c : Cause) : (s.latchCause c).wb = s.wb := rfl
@[simp] theorem latchCause_clock (s : State) (c : Cause) : (s.latchCause c).clock = s.clock := rfl
@[simp] theorem latchCause_cues (s : State) (c : Cause) : (s.latchCause c).cues = s.cues := rfl
@[simp] theorem latchCause_rig (s : State) (c : Cause) : (s.latchCause c).rig = s.rig := rfl

/-! ### Updates listed -/

@[simp] theorem listUpdates_pending (s : State) (us : List Update) : (s.listUpdates us).pending = s.pending := rfl
@[simp] theorem listUpdates_micros (s : State) (us : List Update) : (s.listUpdates us).micros = s.micros := rfl
@[simp] theorem listUpdates_regs (s : State) (us : List Update) : (s.listUpdates us).regs = s.regs := rfl
@[simp] theorem listUpdates_chain (s : State) (us : List Update) : (s.listUpdates us).chain = s.chain := rfl
@[simp] theorem listUpdates_bus (s : State) (us : List Update) : (s.listUpdates us).bus = s.bus := rfl
@[simp] theorem listUpdates_wb (s : State) (us : List Update) : (s.listUpdates us).wb = { s.wb with list := s.wb.list ++ us } := rfl
@[simp] theorem listUpdates_clock (s : State) (us : List Update) : (s.listUpdates us).clock = s.clock := rfl
@[simp] theorem listUpdates_cues (s : State) (us : List Update) : (s.listUpdates us).cues = s.cues := rfl
@[simp] theorem listUpdates_rig (s : State) (us : List Update) : (s.listUpdates us).rig = s.rig := rfl

/-! ### Places given -/

@[simp] theorem givePlaces_pending (s : State) : (s.givePlaces).pending = s.pending := rfl
@[simp] theorem givePlaces_micros (s : State) : (s.givePlaces).micros = s.micros := rfl
@[simp] theorem givePlaces_regs (s : State) : (s.givePlaces).regs = s.regs := rfl
@[simp] theorem givePlaces_chain (s : State) : (s.givePlaces).chain = s.chain := rfl
@[simp] theorem givePlaces_bus (s : State) : (s.givePlaces).bus = s.bus := rfl
@[simp] theorem givePlaces_clock (s : State) : (s.givePlaces).clock = s.clock := rfl
@[simp] theorem givePlaces_cues (s : State) : (s.givePlaces).cues = s.cues := rfl

/-! ### The bus freed -/

@[simp] theorem freeBus_pending (s : State) : (s.freeBus).pending = s.pending := rfl
@[simp] theorem freeBus_micros (s : State) : (s.freeBus).micros = s.micros := rfl
@[simp] theorem freeBus_regs (s : State) : (s.freeBus).regs = s.regs := rfl
@[simp] theorem freeBus_chain (s : State) : (s.freeBus).chain = s.chain := rfl
@[simp] theorem freeBus_bus (s : State) : (s.freeBus).bus = { s.bus with outstanding := none } := rfl
@[simp] theorem freeBus_wb (s : State) : (s.freeBus).wb = s.wb := rfl
@[simp] theorem freeBus_clock (s : State) : (s.freeBus).clock = s.clock := rfl
@[simp] theorem freeBus_cues (s : State) : (s.freeBus).cues = s.cues := rfl
@[simp] theorem freeBus_rig (s : State) : (s.freeBus).rig = s.rig := rfl

/-! ### A read asked for -/

@[simp] theorem askRead_pending (s : State) (op : ReadOp) : (s.askRead op).pending = s.pending := rfl
@[simp] theorem askRead_micros (s : State) (op : ReadOp) : (s.askRead op).micros = s.micros := rfl
@[simp] theorem askRead_regs (s : State) (op : ReadOp) : (s.askRead op).regs = s.regs := rfl
@[simp] theorem askRead_chain (s : State) (op : ReadOp) : (s.askRead op).chain = s.chain := rfl
@[simp] theorem askRead_bus (s : State) (op : ReadOp) : (s.askRead op).bus = { s.bus with readerReq := some op } := rfl
@[simp] theorem askRead_wb (s : State) (op : ReadOp) : (s.askRead op).wb = s.wb := rfl
@[simp] theorem askRead_clock (s : State) (op : ReadOp) : (s.askRead op).clock = s.clock := rfl
@[simp] theorem askRead_cues (s : State) (op : ReadOp) : (s.askRead op).cues = s.cues := rfl
@[simp] theorem askRead_rig (s : State) (op : ReadOp) : (s.askRead op).rig = s.rig := rfl

/-! ### An access issued -/

@[simp] theorem issue_pending (s : State) (a : Access) : (s.issue a).pending = s.pending := rfl
@[simp] theorem issue_micros (s : State) (a : Access) : (s.issue a).micros = s.micros := rfl
@[simp] theorem issue_regs (s : State) (a : Access) : (s.issue a).regs = s.regs := rfl
@[simp] theorem issue_chain (s : State) (a : Access) : (s.issue a).chain = s.chain := rfl
@[simp] theorem issue_wb (s : State) (a : Access) : (s.issue a).wb = s.wb := rfl
@[simp] theorem issue_clock (s : State) (a : Access) : (s.issue a).clock = s.clock := rfl
@[simp] theorem issue_cues (s : State) (a : Access) : (s.issue a).cues = s.cues := rfl
@[simp] theorem issue_rig (s : State) (a : Access) : (s.issue a).rig = s.rig := rfl

/-! ### A mirror write issued -/

@[simp] theorem issueMirror_pending (s : State) (e : MirrorIx) : (s.issueMirror e).pending = s.pending := rfl
@[simp] theorem issueMirror_micros (s : State) (e : MirrorIx) : (s.issueMirror e).micros = s.micros := rfl
@[simp] theorem issueMirror_regs (s : State) (e : MirrorIx) : (s.issueMirror e).regs = s.regs := rfl
@[simp] theorem issueMirror_chain (s : State) (e : MirrorIx) : (s.issueMirror e).chain = s.chain := rfl
@[simp] theorem issueMirror_clock (s : State) (e : MirrorIx) : (s.issueMirror e).clock = s.clock := rfl
@[simp] theorem issueMirror_cues (s : State) (e : MirrorIx) : (s.issueMirror e).cues = s.cues := rfl

/-! ### A read issued -/

@[simp] theorem issueRead_pending (s : State) (op : ReadOp) : (s.issueRead op).pending = s.pending := rfl
@[simp] theorem issueRead_micros (s : State) (op : ReadOp) : (s.issueRead op).micros = s.micros := rfl
@[simp] theorem issueRead_regs (s : State) (op : ReadOp) : (s.issueRead op).regs = s.regs := rfl
@[simp] theorem issueRead_chain (s : State) (op : ReadOp) : (s.issueRead op).chain = s.chain := rfl
@[simp] theorem issueRead_wb (s : State) (op : ReadOp) : (s.issueRead op).wb = s.wb := rfl
@[simp] theorem issueRead_clock (s : State) (op : ReadOp) : (s.issueRead op).clock = s.clock := rfl
@[simp] theorem issueRead_cues (s : State) (op : ReadOp) : (s.issueRead op).cues = s.cues := rfl
@[simp] theorem issueRead_rig (s : State) (op : ReadOp) : (s.issueRead op).rig = s.rig := rfl

/-! ### A scan begun -/

@[simp] theorem beginScan_pending (s : State) : (s.beginScan).pending = s.pending := rfl
@[simp] theorem beginScan_micros (s : State) : (s.beginScan).micros = s.micros := rfl
@[simp] theorem beginScan_regs (s : State) : (s.beginScan).regs = s.regs := rfl
@[simp] theorem beginScan_wb (s : State) : (s.beginScan).wb = s.wb := rfl
@[simp] theorem beginScan_clock (s : State) : (s.beginScan).clock = s.clock := rfl
@[simp] theorem beginScan_cues (s : State) : (s.beginScan).cues = s.cues := rfl
@[simp] theorem beginScan_rig (s : State) : (s.beginScan).rig = s.rig := rfl

/-! ### A sample handed over -/

@[simp] theorem handOverSample_pending (s : State) (p : Sample) : (s.handOverSample p).pending = s.pending := rfl
@[simp] theorem handOverSample_micros (s : State) (p : Sample) : (s.handOverSample p).micros = s.micros := rfl
@[simp] theorem handOverSample_regs (s : State) (p : Sample) : (s.handOverSample p).regs = s.regs := rfl
@[simp] theorem handOverSample_bus (s : State) (p : Sample) : (s.handOverSample p).bus = s.bus := rfl
@[simp] theorem handOverSample_clock (s : State) (p : Sample) : (s.handOverSample p).clock = s.clock := rfl
@[simp] theorem handOverSample_cues (s : State) (p : Sample) : (s.handOverSample p).cues = s.cues := rfl
@[simp] theorem handOverSample_rig (s : State) (p : Sample) : (s.handOverSample p).rig = s.rig := rfl

/-! ### A tick -/

@[simp] theorem tick_pending (s : State) : (s.tick).pending = s.pending := rfl
@[simp] theorem tick_micros (s : State) : (s.tick).micros = s.micros + 1 := rfl
@[simp] theorem tick_regs (s : State) : (s.tick).regs = s.regs := rfl
@[simp] theorem tick_chain (s : State) : (s.tick).chain = s.chain := rfl
@[simp] theorem tick_bus (s : State) : (s.tick).bus = s.bus := rfl
@[simp] theorem tick_wb (s : State) : (s.tick).wb = s.wb := rfl
@[simp] theorem tick_cues (s : State) : (s.tick).cues = s.cues := rfl
@[simp] theorem tick_rig (s : State) : (s.tick).rig = s.rig := rfl

/-! ### A firing -/

@[simp] theorem fire_pending (s : State) (k : SlotIx) (c : Cue) (rest : List Cue) : (s.fire k c rest).pending = s.pending := rfl
@[simp] theorem fire_micros (s : State) (k : SlotIx) (c : Cue) (rest : List Cue) : (s.fire k c rest).micros = s.micros := rfl
@[simp] theorem fire_regs (s : State) (k : SlotIx) (c : Cue) (rest : List Cue) : (s.fire k c rest).regs = s.regs := rfl
@[simp] theorem fire_chain (s : State) (k : SlotIx) (c : Cue) (rest : List Cue) : (s.fire k c rest).chain = s.chain := rfl
@[simp] theorem fire_bus (s : State) (k : SlotIx) (c : Cue) (rest : List Cue) : (s.fire k c rest).bus = s.bus := rfl
@[simp] theorem fire_wb (s : State) (k : SlotIx) (c : Cue) (rest : List Cue) : (s.fire k c rest).wb = s.wb := rfl
@[simp] theorem fire_clock (s : State) (k : SlotIx) (c : Cue) (rest : List Cue) : (s.fire k c rest).clock = s.clock := rfl
@[simp] theorem fire_cues (s : State) (k : SlotIx) (c : Cue) (rest : List Cue) : (s.fire k c rest).cues = rest := rfl

/-! ### A passing over -/

@[simp] theorem passOver_pending (s : State) (c : Cue) (rest : List Cue) : (s.passOver c rest).pending = s.pending := rfl
@[simp] theorem passOver_micros (s : State) (c : Cue) (rest : List Cue) : (s.passOver c rest).micros = s.micros := rfl
@[simp] theorem passOver_regs (s : State) (c : Cue) (rest : List Cue) : (s.passOver c rest).regs = s.regs := rfl
@[simp] theorem passOver_chain (s : State) (c : Cue) (rest : List Cue) : (s.passOver c rest).chain = s.chain := rfl
@[simp] theorem passOver_bus (s : State) (c : Cue) (rest : List Cue) : (s.passOver c rest).bus = s.bus := rfl
@[simp] theorem passOver_clock (s : State) (c : Cue) (rest : List Cue) : (s.passOver c rest).clock = s.clock := rfl
@[simp] theorem passOver_cues (s : State) (c : Cue) (rest : List Cue) : (s.passOver c rest).cues = rest := rfl
@[simp] theorem passOver_rig (s : State) (c : Cue) (rest : List Cue) : (s.passOver c rest).rig = s.rig := rfl

/-! ### The clock set -/

theorem setClock_eq (s : State) (c : Clock) (j : Jump) :
    s.setClock c j = { s with
      clock := c
      cues := if j = .forward then markPassed s.clock.showTime c.showTime s.cues else s.cues
      regs := if j ≠ .none ∨ c.state ≠ s.clock.state then { s.regs with latch := s.regs.latch.add .clock } else s.regs } := by
  unfold State.setClock
  by_cases h : j ≠ .none ∨ c.state ≠ s.clock.state <;> simp [h, State.latchCause]

@[simp] theorem setClock_pending (s : State) (c : Clock) (j : Jump) : (s.setClock c j).pending = s.pending := by
  simp [setClock_eq]
@[simp] theorem setClock_micros (s : State) (c : Clock) (j : Jump) : (s.setClock c j).micros = s.micros := by
  simp [setClock_eq]
@[simp] theorem setClock_chain (s : State) (c : Clock) (j : Jump) : (s.setClock c j).chain = s.chain := by
  simp [setClock_eq]
@[simp] theorem setClock_bus (s : State) (c : Clock) (j : Jump) : (s.setClock c j).bus = s.bus := by
  simp [setClock_eq]
@[simp] theorem setClock_wb (s : State) (c : Clock) (j : Jump) : (s.setClock c j).wb = s.wb := by
  simp [setClock_eq]
@[simp] theorem setClock_clock (s : State) (c : Clock) (j : Jump) : (s.setClock c j).clock = c := by
  simp [setClock_eq]
@[simp] theorem setClock_rig (s : State) (c : Clock) (j : Jump) : (s.setClock c j).rig = s.rig := by
  simp [setClock_eq]

/-! ### An access still in time -/

theorem onTime_eq_some (s : State) (o : Outstanding) :
    s.onTime = some o ↔ s.bus.outstanding = some o ∧ s.micros ≤ o.expiry := by
  simp [State.onTime, Option.filter_eq_some_iff]

theorem onTime_of_late (s : State) (o : Outstanding) (h : s.bus.outstanding = some o) (late : o.expiry < s.micros) :
    s.onTime = none := by
  simp [State.onTime, h, Option.filter, late]

/-! ### A line at mark, hushed, and after receptions -/

@[simp] theorem markFrom_state (x : Line) (m : Nat) : (x.markFrom m).state = x.state := rfl
@[simp] theorem markFrom_echo (x : Line) (m : Nat) : (x.markFrom m).echo = x.echo := rfl
@[simp] theorem markFrom_queue (x : Line) (m : Nat) : (x.markFrom m).queue = x.queue := rfl
@[simp] theorem markFrom_owed (x : Line) (m : Nat) : (x.markFrom m).owed = x.owed := rfl
@[simp] theorem markFrom_overflow (x : Line) (m : Nat) : (x.markFrom m).overflow = x.overflow := rfl
@[simp] theorem markFrom_addrMap (x : Line) (m : Nat) : (x.markFrom m).addrMap = x.addrMap := rfl
@[simp] theorem markFrom_refreshDue (x : Line) (m : Nat) : (x.markFrom m).refreshDue = x.refreshDue := rfl
@[simp] theorem markFrom_work (x : Line) (m : Nat) : (x.markFrom m).work = x.work := rfl
@[simp] theorem cleanFrame_state (x : Line) (m : Nat) : (x.cleanFrame m).state = x.state := rfl
@[simp] theorem cleanFrame_echo (x : Line) (m : Nat) : (x.cleanFrame m).echo = x.echo := rfl
@[simp] theorem cleanFrame_queue (x : Line) (m : Nat) : (x.cleanFrame m).queue = x.queue := rfl
@[simp] theorem cleanFrame_owed (x : Line) (m : Nat) : (x.cleanFrame m).owed = x.owed := rfl
@[simp] theorem cleanFrame_overflow (x : Line) (m : Nat) : (x.cleanFrame m).overflow = x.overflow := rfl
@[simp] theorem cleanFrame_addrMap (x : Line) (m : Nat) : (x.cleanFrame m).addrMap = x.addrMap := rfl
@[simp] theorem cleanFrame_refreshDue (x : Line) (m : Nat) : (x.cleanFrame m).refreshDue = x.refreshDue := rfl
@[simp] theorem cleanFrame_work (x : Line) (m : Nat) : (x.cleanFrame m).work = x.work := rfl
@[simp] theorem emptyWindow_state (x : Line) (m : Nat) : (x.emptyWindow m).state = x.state := rfl
@[simp] theorem emptyWindow_echo (x : Line) (m : Nat) : (x.emptyWindow m).echo = x.echo := rfl
@[simp] theorem emptyWindow_queue (x : Line) (m : Nat) : (x.emptyWindow m).queue = x.queue := rfl
@[simp] theorem emptyWindow_owed (x : Line) (m : Nat) : (x.emptyWindow m).owed = x.owed := rfl
@[simp] theorem emptyWindow_overflow (x : Line) (m : Nat) : (x.emptyWindow m).overflow = x.overflow := rfl
@[simp] theorem emptyWindow_addrMap (x : Line) (m : Nat) : (x.emptyWindow m).addrMap = x.addrMap := rfl
@[simp] theorem emptyWindow_refreshDue (x : Line) (m : Nat) : (x.emptyWindow m).refreshDue = x.refreshDue := rfl
@[simp] theorem emptyWindow_work (x : Line) (m : Nat) : (x.emptyWindow m).work = x.work := rfl
@[simp] theorem markFrom_quietAt (x : Line) (m : Nat) : (x.markFrom m).quietAt = some (m + Config.quietMicros) := rfl
@[simp] theorem cleanFrame_quietAt (x : Line) (m : Nat) : (x.cleanFrame m).quietAt = some (m + Config.quietMicros) := rfl
@[simp] theorem cleanFrame_run (x : Line) (m : Nat) : (x.cleanFrame m).run = 0 := rfl
@[simp] theorem markFrom_mirrored (x : Line) (m : Nat) : (x.markFrom m).mirrored = x.mirrored := rfl
@[simp] theorem cleanFrame_mirrored (x : Line) (m : Nat) : (x.cleanFrame m).mirrored = x.mirrored := rfl
@[simp] theorem emptyWindow_mirrored (x : Line) (m : Nat) : (x.emptyWindow m).mirrored = x.mirrored := rfl

theorem hush_eq (x : Line) (m : Nat) :
    x.hush m = if x.quietAt.all (fun t => decide (t ≤ m)) then
      { x with quietAt := none, awaitsQuiet := x.awaitsQuiet && x.quietAt.isNone } else x := by
  unfold Line.hush
  cases h : x.quietAt with
  | none =>
    obtain ⟨⟩ := x
    simp_all
  | some t => simp

@[simp] theorem hush_mirrored (x : Line) (m : Nat) : (x.hush m).mirrored = x.mirrored := by
  rw [hush_eq]
  split <;> rfl

/-- Every reception sets a wait for quiet, which is no shorter than the one there was (R112). -/
theorem heard_quietAt (x : Line) (micros : Nat) (f : Reception) : ∃ q, (x.heard micros f).quietAt = some q ∧
    micros ≤ q ∧ (∀ p, x.quietAt = some p → p ≤ q) ∧ (f.cut ≠ some .quiet → micros + 40 ≤ q) := by
  refine ⟨_, rfl, ?_, fun p h => ?_, fun h => ?_⟩ <;>
    simp only [quietAfter, Config.quietMicros]
  · split <;> omega
  · simp [h]
  · simp [h]

@[simp] theorem heard_mirrored (x : Line) (m : Nat) (f : Reception) : (x.heard m f).mirrored = x.mirrored := rfl
@[simp] theorem heard_work (x : Line) (m : Nat) (f : Reception) : (x.heard m f).work = x.work := rfl
@[simp] theorem heard_queue (x : Line) (m : Nat) (f : Reception) : (x.heard m f).queue = x.queue := rfl
@[simp] theorem heard_addrMap (x : Line) (m : Nat) (f : Reception) : (x.heard m f).addrMap = x.addrMap := rfl
@[simp] theorem stray_work (x : Line) (m : Nat) (f : Reception) : (x.stray m f).work = x.work := rfl
@[simp] theorem stray_quietAt (x : Line) (m : Nat) (f : Reception) :
    (x.stray m f).quietAt = (x.heard m f).quietAt := rfl
@[simp] theorem garbled_quietAt (x : Line) (m : Nat) (f : Reception) :
    (x.garbled m f).quietAt = (x.heard m f).quietAt := rfl

/-! ### LATCHes on the wire (R87, R105) -/

/-- An abandoned LATCH is held unless its slot has left RUNNING since it began. -/
theorem abandoned_latch (x : Line) (n : SlotIx) (o : Option Bool) (f : List Byte) (h : x.work = .latch n o f) :
    x.abandoned = if x.latchSpent then .idle else .latch n none f := by
  simp [Line.abandoned, h, Work.abandon]

theorem abandoned_other (x : Line) (h : ∀ n o f, x.work ≠ .latch n o f) : x.abandoned = x.work.abandon := by
  unfold Line.abandoned
  split
  · next n o f e => exact absurd e (h n o f)
  · rfl

@[simp] theorem beginLatch_work (x : Line) (n : SlotIx) (f : List Byte) :
    (x.beginLatch n f).work = .latch n (some x.echo) f := rfl
@[simp] theorem beginLatch_latchSpent (x : Line) (n : SlotIx) (f : List Byte) : (x.beginLatch n f).latchSpent = false := rfl
@[simp] theorem beginLatch_mirrored (x : Line) (n : SlotIx) (f : List Byte) :
    (x.beginLatch n f).mirrored = x.mirrored := rfl

/-! ### The reply window -/

theorem inWindow_iff (c began : Nat) : inWindow c began = true ↔ c ≤ began + 400 ∧ began ≤ c := by
  simp [inWindow, show Config.replyWindowMicros = 400 from rfl]

theorem hears_exchange (e : Exchange) (c began : Nat) (h : e.phase = .window c) :
    (Work.exchange e).hears began = if inWindow c began then some e else none := by
  simp only [Work.hears, Work.listening, h]
  by_cases k : inWindow c began = true <;> simp [Option.filter, k]

/-! ### The host's writes -/

theorem hostWrite_width (s : State) (offset width : Nat) (v : Word) (h : width ≠ 4) : s.hostWrite offset width v = s := by
  simp [State.hostWrite, h]

theorem hostWrite_control (s : State) (v : Word) : s.hostWrite 0x00 4 v = s.writeControl v := rfl
theorem hostWrite_base (s : State) (v : Word) :
    s.hostWrite 0x08 4 v = s.writeBase .low v ∧ s.hostWrite 0x0C 4 v = s.writeBase .high v := ⟨rfl, rfl⟩
theorem hostWrite_settings (s : State) (v : Word) : s.hostWrite 0x10 4 v = s.writeSize v ∧
    s.hostWrite 0x14 4 v = s.writePeriod v ∧ s.hostWrite 0x20 4 v = s.writeMask v := ⟨rfl, rfl, rfl⟩

end Sys2Proof.Machine
end

