-- ==== Sys2Proof/Laws/Settle.lean ====
section
/-! SUPPORT. What the end of an event can do (`State.settle`): the lines begin frames, the Write-Back Unit and the Bus
Master ask and issue; everything else stays. -/

namespace Sys2Proof.Machine

/-! ### Lines and heads changed -/

@[simp] theorem Rig.touchHead_heads (r : Rig) (i h : HeadIx) (f : Head → Head) :
    (r.touchHead i f).heads.get h = if h = i then f (r.heads.get i) else r.heads.get h := by
  simp [Rig.touchHead, upd_get]

/-- A line changed in nothing its mirror entry carries sets no mark. -/
theorem Rig.modLine_plain (r : Rig) (l : LineIx) (f : Line → Line)
    (hf : (f (r.lines.get l)).mirrored = (r.lines.get l).mirrored) :
    r.modLine l f = { r with lines := upd r.lines l (f (r.lines.get l)) } := by
  simp [Rig.modLine, Rig.putLine, hf]

/-- A line as it may be after frames have been chosen and begun on it. -/
def Line.Moved (x y : Line) : Prop :=
  ∃ q o v w lp f c p sq ad ls, y = { x with
    queue := q, owed := o, overflow := v, work := w, lastPoll := lp, framesSincePoll := f, commandsSinceLook := c,
    pollPos := p, seq := sq, afterDark := ad, latchSpent := ls }

/-- A head as it may be after frames have been begun for it: the next AIM sequence, the course of its move, transitions
that have run. -/
def Head.Moved (x y : Head) : Prop :=
  (∃ sq m c b, y = { x with nextAim := sq, move := m, colRelease := c, beamRelease := b }) ∧
    y.move.map Move.plain = x.move.map Move.plain

theorem Line.Moved.refl (x : Line) : Line.Moved x x := ⟨_, _, _, _, _, _, _, _, _, _, _, rfl⟩

theorem Line.Moved.trans {x y z : Line} (h : Line.Moved x y) (k : Line.Moved y z) : Line.Moved x z := by
  obtain ⟨_, _, _, _, _, _, _, _, _, _, _, rfl⟩ := h
  obtain ⟨_, _, _, _, _, _, _, _, _, _, _, rfl⟩ := k
  exact ⟨_, _, _, _, _, _, _, _, _, _, _, rfl⟩

theorem Line.Moved.mirrored {x y : Line} (h : Line.Moved x y) : y.mirrored = x.mirrored := by
  obtain ⟨_, _, _, _, _, _, _, _, _, _, _, rfl⟩ := h
  rfl

theorem Head.Moved.refl (x : Head) : Head.Moved x x := ⟨⟨_, _, _, _, rfl⟩, rfl⟩

theorem Head.Moved.trans {x y z : Head} (h : Head.Moved x y) (k : Head.Moved y z) : Head.Moved x z := by
  obtain ⟨⟨_, _, _, _, rfl⟩, hc⟩ := h
  obtain ⟨⟨_, _, _, _, rfl⟩, kc⟩ := k
  exact ⟨⟨_, _, _, _, rfl⟩, kc.trans hc⟩

/-- What choosing and beginning frames leaves of the fixture side. -/
structure Rig.Begun (r r' : Rig) : Prop where
  profiles : r'.profiles = r.profiles
  sectors : r'.sectors = r.sectors
  members : r'.members = r.members
  slots : r'.slots = r.slots
  marks : r'.marks = r.marks
  offered : r'.offered = r.offered
  head : ∀ h, Head.Moved (r.heads.get h) (r'.heads.get h)
  line : ∀ l, Line.Moved (r.lines.get l) (r'.lines.get l)

theorem Rig.Begun.refl (r : Rig) : r.Begun r :=
  ⟨rfl, rfl, rfl, rfl, rfl, rfl, fun _ => .refl _, fun _ => .refl _⟩

theorem Rig.Begun.trans {r s t : Rig} (h : r.Begun s) (k : s.Begun t) : r.Begun t :=
  ⟨k.profiles.trans h.profiles, k.sectors.trans h.sectors, k.members.trans h.members, k.slots.trans h.slots,
    k.marks.trans h.marks, k.offered.trans h.offered, fun x => (h.head x).trans (k.head x),
    fun x => (h.line x).trans (k.line x)⟩

theorem Rig.Begun.modLine (r : Rig) (l : LineIx) (f : Line → Line) (hf : ∀ x, Line.Moved x (f x)) :
    r.Begun (r.modLine l f) := by
  rw [Rig.modLine_plain r l f (hf _).mirrored]
  refine ⟨rfl, rfl, rfl, rfl, rfl, rfl, fun _ => .refl _, fun k => ?_⟩
  show Line.Moved _ ((upd r.lines l (f (r.lines.get l))).get k)
  rw [upd_get]
  split
  · next e => subst e; exact hf _
  · exact .refl _

theorem Rig.Begun.touchHead (r : Rig) (i : HeadIx) (f : Head → Head)
    (hf : Head.Moved (r.heads.get i) (f (r.heads.get i))) : r.Begun (r.touchHead i f) := by
  refine ⟨rfl, rfl, rfl, rfl, rfl, rfl, fun h => ?_, fun _ => .refl _⟩
  rw [Rig.touchHead_heads]
  split
  · next e => subst e; exact hf
  · exact .refl _

/-! ### Frames begun -/

theorem Rig.setWork_begun (r : Rig) (l : LineIx) (w : Work) : r.Begun (r.setWork l w) :=
  .modLine r l _ fun _ => ⟨_, _, _, _, _, _, _, _, _, _, _, rfl⟩

theorem Line.refill_moved (x : Line) : Line.Moved x x.refill := ⟨_, _, _, _, _, _, _, _, _, _, _, rfl⟩

theorem Head.ended_moved (x : Head) (now : Nat) : Head.Moved x ((x.endColour now).endBeam now) :=
  ⟨⟨_, _, _, _, rfl⟩, rfl⟩

theorem Rig.beginLook_begun (now : Nat) (r : Rig) (l : LineIx) (a : AddrIx) (dark : Bool) :
    r.Begun (r.beginLook now l a dark) := by
  unfold Rig.beginLook
  split
  · exact .refl r
  · exact (Rig.Begun.touchHead r _ _ (Head.ended_moved _ now)).trans (Rig.setWork_begun _ _ _)

theorem Rig.beginPoll_begun (now : Nat) (r : Rig) (l : LineIx) (a : AddrIx) : r.Begun (r.beginPoll now l a) := by
  unfold Rig.beginPoll
  split
  · exact .refl r
  · exact .modLine r l _ fun _ => ⟨_, _, _, _, _, _, _, _, _, _, _, rfl⟩

theorem Move.plain_begun (m : Move) (sq : Seq) (st : MoveState) (n : Nat) :
    ({ m.modLeg (fun g => { g with seq := some sq }) with state := st, attempts := n } : Move).plain = m.plain := by
  unfold Move.modLeg Move.plain
  split
  · next h => simp [h]
  · rfl
  · rfl

theorem Rig.beginAim_begun (r : Rig) (l : LineIx) (h : HeadIx) (b : Binding) (m : Move)
    (hm : (r.heads.get h).move = some m) : r.Begun (r.beginAim l h b m) := by
  refine (Rig.Begun.touchHead r h _ ?_).trans (.modLine _ l _ fun _ => ⟨_, _, _, _, _, _, _, _, _, _, _, rfl⟩)
  exact ⟨⟨_, _, _, _, rfl⟩, by simp [hm, Move.plain_begun]⟩

theorem Rig.beginCommand_begun (r : Rig) (l : LineIx) (c : Command) : r.Begun (r.beginCommand l c).1 := by
  have plain : ∀ (k : ExKind) (h : HeadIx) (a : AddrIx), r.Begun (r.modLine l fun x => x.beginPlain k h a) :=
    fun k h a => .modLine r l _ fun _ => ⟨_, _, _, _, _, _, _, _, _, _, _, rfl⟩
  unfold Rig.beginCommand
  split
  · exact .modLine r l _ fun _ => ⟨_, _, _, _, _, _, _, _, _, _, _, rfl⟩
  · split
    · next m _ hm =>
      split
      · exact Rig.beginAim_begun r l _ _ _ hm
      · exact .refl r
    · exact .refl r
  · split
    · split
      · exact plain _ _ _
      · exact .refl r
    · exact .refl r
  · split
    · split
      · exact plain _ _ _
      · exact .refl r
    · exact .refl r

theorem Rig.takeFront_begun (r : Rig) (l : LineIx) : r.Begun (r.takeFront l).1 := by
  unfold Rig.takeFront
  split
  · exact .refl r
  · next c q _ =>
    have h1 : r.Begun (r.modLine l fun x => ({ x with queue := q } : Line).refill) :=
      .modLine r l _ fun _ => ⟨_, _, _, _, _, _, _, _, _, _, _, rfl⟩
    have h2 := Rig.beginCommand_begun (r.modLine l fun x => ({ x with queue := q } : Line).refill) l c
    dsimp only
    split
    · exact (h1.trans h2).trans (.modLine _ l _ fun _ => ⟨_, _, _, _, _, _, _, _, _, _, _, rfl⟩)
    · exact h1.trans h2

theorem Rig.chooseNext_begun (now : Nat) (n : Nat) (r : Rig) (l : LineIx) : r.Begun (r.chooseNext now n l) := by
  induction n generalizing r with
  | zero => exact .refl r
  | succ n ih =>
    unfold Rig.chooseNext
    have h0 : r.Begun (if (r.lines.get l).afterDark.isSome then
        r.modLine l fun x => { x with afterDark := none } else r) := by
      split
      · exact .modLine r l _ fun _ => ⟨_, _, _, _, _, _, _, _, _, _, _, rfl⟩
      · exact .refl r
    generalize (if (r.lines.get l).afterDark.isSome then
        r.modLine l fun x => { x with afterDark := none } else r) = t at h0 ⊢
    dsimp only
    split
    · exact h0
    · exact h0.trans (Rig.beginLook_begun now t l _ _)
    · exact h0.trans (Rig.beginPoll_begun now t l _)
    · have h1 := Rig.takeFront_begun t l
      split
      · exact h0.trans h1
      · exact (h0.trans h1).trans (ih _)

theorem Rig.nextAttempt_begun (r : Rig) (l : LineIx) (e : Exchange) : r.Begun (r.nextAttempt l e) := by
  unfold Rig.nextAttempt
  have h : r.Begun (if e.kind = .aim then
      r.touchHead e.head fun x => { x with move := x.move.map fun m => { m with attempts := m.attempts + 1 } }
      else r) := by
    split
    · refine .touchHead r _ _ ⟨⟨_, _, _, _, rfl⟩, ?_⟩
      cases (r.heads.get e.head).move <;> rfl
    · exact .refl r
  exact h.trans (.modLine _ l _ fun _ => ⟨_, _, _, _, _, _, _, _, _, _, _, rfl⟩)

theorem Rig.sendAgain_begun (now : Nat) (r : Rig) (l : LineIx) (e : Exchange) :
    r.Begun (r.modLine l fun x => x.sendAgain now e) := by
  refine .modLine r l _ fun x => ?_
  unfold Line.sendAgain
  split <;> exact ⟨_, _, _, _, _, _, _, _, _, _, _, rfl⟩

theorem Rig.lineGo_begun (now : Nat) (r : Rig) (l : LineIx) : r.Begun (r.lineGo now l) := by
  unfold Rig.lineGo
  dsimp only
  split
  · split
    · exact Rig.chooseNext_begun now _ r l
    · exact .modLine r l _ fun _ => ⟨_, _, _, _, _, _, _, _, _, _, _, rfl⟩
    · split
      · exact Rig.sendAgain_begun now r l _
      · exact Rig.nextAttempt_begun r l _
      · exact .refl r
      · exact .refl r
    · exact .refl r
    · exact .refl r
  · exact .refl r

theorem Rig.settleLines_begun (now : Nat) (r : Rig) : r.Begun (r.settleLines now) := by
  unfold Rig.settleLines
  generalize List.finRange 16 = ls
  induction ls generalizing r with
  | nil => exact .refl r
  | cons l ls ih => exact (Rig.lineGo_begun now r l).trans (ih _)

/-! ### The bus -/

/-- What the Write-Back Unit and the Bus Master leave when they ask and issue. -/
structure State.Issued (s t : State) : Prop where
  pending : t.pending = s.pending
  micros : t.micros = s.micros
  regs : t.regs = s.regs
  chain : t.chain = s.chain
  clock : t.clock = s.clock
  cues : t.cues = s.cues
  wb : ∃ sw st n, t.wb = { s.wb with sweep := sw, stamps := st, sinceMirror := n }
  rig : ∃ m, t.rig = { s.rig with marks := m }
  held : t.bus.held = s.bus.held

theorem State.Issued.refl (s : State) : s.Issued s :=
  ⟨rfl, rfl, rfl, rfl, rfl, rfl, ⟨_, _, _, rfl⟩, ⟨_, rfl⟩, rfl⟩

theorem State.Issued.trans {s t u : State} (h : s.Issued t) (k : t.Issued u) : s.Issued u := by
  obtain ⟨_, _, _, hw⟩ := h.wb
  obtain ⟨_, _, _, kw⟩ := k.wb
  obtain ⟨_, hr⟩ := h.rig
  obtain ⟨_, kr⟩ := k.rig
  exact ⟨k.pending.trans h.pending, k.micros.trans h.micros, k.regs.trans h.regs, k.chain.trans h.chain,
    k.clock.trans h.clock, k.cues.trans h.cues, ⟨_, _, _, by rw [kw, hw]⟩, ⟨_, by rw [kr, hr]⟩, k.held.trans h.held⟩

theorem askWrite_issued (s : State) : s.Issued s.askWrite := by
  unfold State.askWrite
  split
  · exact ⟨rfl, rfl, rfl, rfl, rfl, rfl, ⟨_, _, _, rfl⟩, ⟨_, rfl⟩, rfl⟩
  · exact .refl s

theorem issue_issued (s : State) (a : Access) : s.Issued (s.issue a) :=
  ⟨rfl, rfl, rfl, rfl, rfl, rfl, ⟨_, _, _, rfl⟩, ⟨_, rfl⟩, rfl⟩

theorem issueMirror_wb (s : State) (e : MirrorIx) :
    ∃ sw st n, (s.issueMirror e).wb = { s.wb with sweep := sw, stamps := st, sinceMirror := n } := by
  unfold State.issueMirror State.issue
  exact ⟨_, _, _, rfl⟩

theorem issueMirror_rig (s : State) (e : MirrorIx) : ∃ m, (s.issueMirror e).rig = { s.rig with marks := m } := by
  unfold State.issueMirror State.issue
  exact ⟨_, rfl⟩

theorem issueMirror_held (s : State) (e : MirrorIx) : (s.issueMirror e).bus.held = s.bus.held := by
  simp only [State.issueMirror, State.issue]

theorem issueMirror_readerReq (s : State) (e : MirrorIx) : (s.issueMirror e).bus.readerReq = s.bus.readerReq := by
  simp only [State.issueMirror, State.issue]

theorem issueMirror_issued (s : State) (e : MirrorIx) : s.Issued (s.issueMirror e) where
  pending := issueMirror_pending s e
  micros := issueMirror_micros s e
  regs := issueMirror_regs s e
  chain := issueMirror_chain s e
  clock := issueMirror_clock s e
  cues := issueMirror_cues s e
  wb := issueMirror_wb s e
  rig := issueMirror_rig s e
  held := issueMirror_held s e

theorem clearRequest_issued (s : State) : s.Issued { s with bus := { s.bus with writerReq := none } } :=
  ⟨rfl, rfl, rfl, rfl, rfl, rfl, ⟨_, _, _, rfl⟩, ⟨_, rfl⟩, rfl⟩

/-- The forms an issued request can take. -/
theorem issueWrite_cases (s : State) (w : WriteReq) :
    (∃ a, s.issueWrite w = ({ s with bus := { s.bus with writerReq := none } } : State).issue a) ∨
    (∃ e, s.issueWrite w = ({ s with bus := { s.bus with writerReq := none } } : State).issueMirror e) ∨
    s.issueWrite w = { s with bus := { s.bus with writerReq := none } } := by
  unfold State.issueWrite
  generalize ({ s with bus := { s.bus with writerReq := none } } : State) = t
  cases w with
  | mirror e => exact .inr (.inl ⟨e, rfl⟩)
  | result =>
    cases h : t.wb.list with
    | nil => exact .inr (.inr (by simp [h]))
    | cons u us => exact .inl ⟨.result u, by simp [h]⟩
  | state =>
    cases h : t.wb.list with
    | nil => exact .inr (.inr (by simp [h]))
    | cons u us => exact .inl ⟨.state u, by simp [h]⟩
  | header =>
    cases h : t.wb.waiting with
    | none => exact .inr (.inr (by simp [h]))
    | some p => exact .inl ⟨.header p.sample, by simp [h]⟩

theorem issueWrite_issued (s : State) (w : WriteReq) : s.Issued (s.issueWrite w) := by
  rcases issueWrite_cases s w with ⟨a, h⟩ | ⟨e, h⟩ | h
  · rw [h]; exact (clearRequest_issued s).trans (issue_issued _ a)
  · rw [h]; exact (clearRequest_issued s).trans (issueMirror_issued _ e)
  · rw [h]; exact clearRequest_issued s

theorem issueRead_issued (s : State) (op : ReadOp) : s.Issued (s.issueRead op) :=
  ⟨rfl, rfl, rfl, rfl, rfl, rfl, ⟨_, _, _, rfl⟩, ⟨_, rfl⟩, rfl⟩

theorem arbitrate_issued (s : State) : s.Issued s.arbitrate := by
  unfold State.arbitrate
  split
  · exact .refl s
  · split
    · split
      · exact issueWrite_issued s _
      · exact issueRead_issued s _
    · exact issueRead_issued s _
    · exact issueWrite_issued s _
    · exact .refl s

theorem settleBus_issued (s : State) : s.Issued s.settleBus := (askWrite_issued s).trans (arbitrate_issued _)

theorem issueWrite_readerReq (s : State) (w : WriteReq) : (s.issueWrite w).bus.readerReq = s.bus.readerReq := by
  rcases issueWrite_cases s w with ⟨a, h⟩ | ⟨e, h⟩ | h
  · rw [h]; rfl
  · rw [h]; exact issueMirror_readerReq _ e
  · rw [h]

/-- A read the Chain Reader has asked for stays asked for while the bus settles. -/
theorem settleBus_reads (s : State) (op : ReadOp) (h : s.reads op) : s.settleBus.reads op := by
  have ha : s.askWrite.reads op := by
    unfold State.askWrite
    split
    · exact h
    · exact h
  unfold State.settleBus
  generalize s.askWrite = t at ha
  unfold State.arbitrate
  rcases ha with hr | ⟨e, ho⟩
  · split
    · exact .inl hr
    · rw [hr]
      split
      · next e _ => 
        cases e
        split
        · exact .inl ((issueWrite_readerReq t _).trans hr)
        · exact .inr ⟨_, rfl⟩
      · next e _ => cases e; exact .inr ⟨_, rfl⟩
      · next e _ => cases e
      · next e _ => cases e
  · rw [if_pos (by simp [ho])]
    exact .inr ⟨e, ho⟩

/-! ### The end of an event -/

/-- What the end of an event leaves: everything but the work of the lines, the requests and accesses of the bus, and
the updates that find a place. -/
structure State.Settled (s t : State) : Prop where
  pending : t.pending = s.pending
  micros : t.micros = s.micros
  regs : t.regs = s.regs
  chain : t.chain = s.chain
  clock : t.clock = s.clock
  cues : t.cues = s.cues
  list : t.wb.list = s.givePlaces.wb.list
  waiting : t.wb.waiting = s.wb.waiting
  later : t.wb.later = s.wb.later
  lastHead : t.wb.lastHead = s.wb.lastHead
  lastLine : t.wb.lastLine = s.wb.lastLine
  offered : t.rig.offered = s.rig.offered.drop s.wb.free
  profiles : t.rig.profiles = s.rig.profiles
  sectors : t.rig.sectors = s.rig.sectors
  members : t.rig.members = s.rig.members
  slots : t.rig.slots = s.rig.slots
  head : ∀ h, Head.Moved (s.rig.heads.get h) (t.rig.heads.get h)
  line : ∀ l, Line.Moved (s.rig.lines.get l) (t.rig.lines.get l)
  held : t.bus.held = s.bus.held

theorem settle_settled (s : State) : s.Settled s.settle := by
  have hb := Rig.settleLines_begun s.givePlaces.now s.givePlaces.rig
  have hi := settleBus_issued (s.givePlaces.withRig (s.givePlaces.rig.settleLines s.givePlaces.now))
  have he : s.settle = (s.givePlaces.withRig (s.givePlaces.rig.settleLines s.givePlaces.now)).settleBus := rfl
  rw [he]
  generalize s.givePlaces.rig.settleLines s.givePlaces.now = r at hb hi
  generalize (s.givePlaces.withRig r).settleBus = t at hi
  obtain ⟨_, _, _, hw⟩ := hi.wb
  obtain ⟨_, hr⟩ := hi.rig
  exact
    { pending := hi.pending, micros := hi.micros, regs := hi.regs, chain := hi.chain, clock := hi.clock,
      cues := hi.cues, held := hi.held
      list := by rw [hw]; rfl
      waiting := by rw [hw]; rfl
      later := by rw [hw]; rfl
      lastHead := by rw [hw]; rfl
      lastLine := by rw [hw]; rfl
      offered := by rw [hr]; exact hb.offered
      profiles := by rw [hr]; exact hb.profiles
      sectors := by rw [hr]; exact hb.sectors
      members := by rw [hr]; exact hb.members
      slots := by rw [hr]; exact hb.slots
      head := fun h => by rw [hr]; exact hb.head h
      line := fun l => by rw [hr]; exact hb.line l }

/-- A read the Chain Reader has asked for stays asked for at the end of the event. -/
theorem settle_reads (s : State) (op : ReadOp) (h : s.reads op) : s.settle.reads op := settleBus_reads _ op h

/-- The fields of a head that the end of an event leaves. -/
theorem Head.Moved.fields {x y : Head} (h : Head.Moved x y) :
    y.avail = x.avail ∧ y.binding = x.binding ∧ y.accepted = x.accepted ∧ y.settled = x.settled ∧ y.hull = x.hull ∧
    y.missRun = x.missRun ∧ y.missTotal = x.missTotal ∧ y.identTimer = x.identTimer ∧ y.guard = x.guard ∧
    y.lamp = x.lamp ∧ y.strikePending = x.strikePending ∧ y.lampTimer = x.lampTimer ∧ y.faultCause = x.faultCause ∧
    y.lastOutcome = x.lastOutcome ∧ y.lastRefused = x.lastRefused ∧ y.lastCueTag = x.lastCueTag ∧
    y.showPos = x.showPos ∧ y.livePos = x.livePos ∧ y.showCol = x.showCol ∧ y.liveCol = x.liveCol ∧
    y.showBeam = x.showBeam ∧ y.liveBeam = x.liveBeam := by
  obtain ⟨⟨_, _, _, _, rfl⟩, _⟩ := h
  simp

/-- The fields of a line that the end of an event leaves. -/
theorem Line.Moved.fields {x y : Line} (h : Line.Moved x y) :
    y.state = x.state ∧ y.echo = x.echo ∧ y.refresh = x.refresh ∧ y.poll = x.poll ∧ y.run = x.run ∧
    y.timer = x.timer ∧ y.refreshDue = x.refreshDue ∧ y.collisions = x.collisions ∧ y.misses = x.misses ∧
    y.checkErrors = x.checkErrors ∧ y.addrMap = x.addrMap ∧ y.quietAt = x.quietAt ∧ y.cutWindow = x.cutWindow := by
  obtain ⟨_, _, _, _, _, _, _, _, _, _, _, rfl⟩ := h
  simp

/-! ### In the words of the statements -/

theorem Head.Moved.framesOnly {x y : Head} (h : Head.Moved x y) : x.framesOnly y := by
  obtain ⟨⟨_, _, _, _, rfl⟩, hc⟩ := h
  exact ⟨rfl, hc⟩

theorem Line.Moved.framesOnly {x y : Line} (h : Line.Moved x y) : x.framesOnly y := by
  obtain ⟨_, _, _, _, _, _, _, _, _, _, _, rfl⟩ := h
  rfl

theorem givePlaces_prefix (s : State) : s.wb.list <+: s.givePlaces.wb.list := ⟨_, rfl⟩

theorem settle_baseKept (s : State) : s.baseKept s.settle := by
  have h := settle_settled s
  exact ⟨h.pending, h.micros, h.lastHead, h.lastLine, h.held, h.list ▸ givePlaces_prefix s⟩

theorem settle_outsideKept (s : State) : s.outsideKept s.settle := by
  have h := settle_settled s
  exact ⟨settle_baseKept s, ⟨h.clock, h.cues⟩, ⟨h.waiting, h.later⟩, h.regs, h.chain⟩

theorem settle_kept (s : State) : s.rig.kept s.settle.rig := by
  have h := settle_settled s
  exact ⟨⟨h.profiles, h.sectors, h.members⟩, h.slots, fun i _ => (h.head i).framesOnly, fun i _ => (h.line i).framesOnly⟩

/-- An event on the fixture side leaves all that stands beside it. -/
theorem onRig_outsideKept (s : State) (f : Nat → Rig → Rig) : s.outsideKept (s.onRig f) :=
  settle_outsideKept (s.withRig (f s.now s.rig))

/-- The fixture side after an event on it: what the event made of it, and frames begun. -/
theorem onRig_rig (s : State) (f : Nat → Rig → Rig) : (f s.now s.rig).kept (s.onRig f).rig :=
  settle_kept (s.withRig (f s.now s.rig))

end Sys2Proof.Machine
end

