-- ==== Sys2Proof/Laws/Moves.lean ====
section
/-! SUPPORT. What the shared operations on moves, queues and running slots can do (`Rig.Stirred`), said once for all of
them: a head keeps its state, its binding, its cells and its lamp; a line keeps its state, its settings and its
counters and its queue stays in size; a slot keeps its cue. -/

namespace Sys2Proof.Machine

/-! ### The relation -/

/-- A head as moves, requests and their endings may leave it. -/
def Head.Stirred (x y : Head) : Prop :=
  ∃ ac se hu sq gt gp sp lo lr lt cr br mv, y = { x with
    accepted := ac, settled := se, hull := hu, nextAim := sq, guard := { x.guard with transit := gt, parked := gp }
    strikePending := sp, lastOutcome := lo, lastRefused := lr, lastCueTag := lt, colRelease := cr, beamRelease := br
    move := mv }

/-- A line's queue and overflow are within their sizes. -/
def Line.fits (x : Line) : Prop :=
  x.queue.length ≤ Config.queuePlaces ∧ x.overflow.length ≤ Config.overflowPlaces

/-- A line as requests, withdrawals and choices may leave it. -/
def Line.Stirred (x y : Line) : Prop :=
  (∃ q o v w lp f c p sq ad rd ls, y = { x with
    queue := q, owed := o, overflow := v, work := w, lastPoll := lp, framesSincePoll := f, commandsSinceLook := c,
    pollPos := p, seq := sq, afterDark := ad, refreshDue := rd, latchSpent := ls }) ∧ (x.fits → y.fits)

/-- What a slot keeps of its cue from its firing on. -/
def Running.cue (x : Running) : Tag × Nat × Bool × Nat × Nat × Nat × Nat × Bool × Bool :=
  (x.tag, x.offset, x.together, x.latchWait, x.fireShow, x.fireEngine, x.lateness, x.lateFire, x.skipped)

/-- What the shared operations leave of the fixture side. -/
structure Rig.Stirred (r r' : Rig) : Prop where
  profiles : r'.profiles = r.profiles
  sectors : r'.sectors = r.sectors
  members : r'.members = r.members
  head : ∀ h, Head.Stirred (r.heads.get h) (r'.heads.get h)
  line : ∀ l, Line.Stirred (r.lines.get l) (r'.lines.get l)
  slot : ∀ k, (r'.slots.get k).map Running.cue = (r.slots.get k).map Running.cue

theorem Head.Stirred.refl (x : Head) : Head.Stirred x x := ⟨_, _, _, _, _, _, _, _, _, _, _, _, _, rfl⟩

theorem Head.Stirred.trans {x y z : Head} (h : Head.Stirred x y) (k : Head.Stirred y z) : Head.Stirred x z := by
  obtain ⟨_, _, _, _, _, _, _, _, _, _, _, _, _, rfl⟩ := h
  obtain ⟨_, _, _, _, _, _, _, _, _, _, _, _, _, rfl⟩ := k
  exact ⟨_, _, _, _, _, _, _, _, _, _, _, _, _, rfl⟩

theorem Line.Stirred.refl (x : Line) : Line.Stirred x x := ⟨⟨_, _, _, _, _, _, _, _, _, _, _, _, rfl⟩, id⟩

theorem Line.Stirred.trans {x y z : Line} (h : Line.Stirred x y) (k : Line.Stirred y z) : Line.Stirred x z := by
  obtain ⟨⟨_, _, _, _, _, _, _, _, _, _, _, _, rfl⟩, hf⟩ := h
  obtain ⟨⟨_, _, _, _, _, _, _, _, _, _, _, _, rfl⟩, kf⟩ := k
  exact ⟨⟨_, _, _, _, _, _, _, _, _, _, _, _, rfl⟩, kf ∘ hf⟩

theorem Rig.Stirred.refl (r : Rig) : r.Stirred r := ⟨rfl, rfl, rfl, fun _ => .refl _, fun _ => .refl _, fun _ => rfl⟩

theorem Rig.Stirred.trans {r s t : Rig} (h : r.Stirred s) (k : s.Stirred t) : r.Stirred t :=
  ⟨k.profiles.trans h.profiles, k.sectors.trans h.sectors, k.members.trans h.members,
    fun x => (h.head x).trans (k.head x), fun x => (h.line x).trans (k.line x), fun x => (k.slot x).trans (h.slot x)⟩

/-- A fold of operations each of which stirs. -/
theorem Rig.Stirred.fold {α : Type} (f : Rig → α → Rig) (hf : ∀ (r : Rig) (a : α), r.Stirred (f r a)) (l : List α) (r : Rig) :
    r.Stirred (l.foldl f r) := by
  induction l generalizing r with
  | nil => exact .refl r
  | cons a l ih => exact (hf r a).trans (ih _)

/-! ### Writing heads, lines and slots -/

theorem mark_stirred (r : Rig) (e : MirrorIx) : r.Stirred (r.mark e) :=
  ⟨rfl, rfl, rfl, fun _ => .refl _, fun _ => .refl _, fun _ => rfl⟩

theorem putLine_stirred (r : Rig) (l : LineIx) (x : Line) (h : Line.Stirred (r.lines.get l) x) :
    r.Stirred (r.putLine l x) := by
  have h0 : r.Stirred { r with lines := upd r.lines l x } := by
    refine ⟨rfl, rfl, rfl, fun _ => .refl _, fun k => ?_, fun _ => rfl⟩
    show Line.Stirred _ ((upd r.lines l x).get k)
    rw [upd_get]
    split
    · next e => subst e; exact h
    · exact .refl _
  unfold Rig.putLine
  dsimp only
  split
  · exact h0
  · exact h0.trans (mark_stirred _ _)

theorem modLine_stirred (r : Rig) (l : LineIx) (f : Line → Line) (h : ∀ x, Line.Stirred x (f x)) :
    r.Stirred (r.modLine l f) := putLine_stirred r l _ (h _)

theorem heads_stirred (r : Rig) (v : Vector Head 512) (h : ∀ i, Head.Stirred (r.heads.get i) (v.get i)) :
    r.Stirred { r with heads := v } := ⟨rfl, rfl, rfl, h, fun _ => .refl _, fun _ => rfl⟩

theorem upd_head_stirred (r : Rig) (i : HeadIx) (h : Head) (hh : Head.Stirred (r.heads.get i) h) :
    r.Stirred { r with heads := upd r.heads i h } := by
  refine heads_stirred r _ fun k => ?_
  rw [upd_get]
  split
  · next e => subst e; exact hh
  · exact .refl _

theorem due_stirred (x : Line) (d : Vector (Option Nat) 32) : Line.Stirred x { x with refreshDue := d } :=
  ⟨⟨_, _, _, _, _, _, _, _, _, _, _, _, rfl⟩, id⟩

theorem putHead_stirred (now : Nat) (r : Rig) (i : HeadIx) (h : Head) (hh : Head.Stirred (r.heads.get i) h) :
    r.Stirred (r.putHead now i h) := by
  have h0 := upd_head_stirred r i h hh
  unfold Rig.putHead
  dsimp only
  have h1 : r.Stirred (if (r.heads.get i).mirrored = h.mirrored then { r with heads := upd r.heads i h }
      else ({ r with heads := upd r.heads i h } : Rig).mark (headEntry i)) := by
    split
    · exact h0
    · exact h0.trans (mark_stirred _ _)
  split
  · exact h1
  · exact h1.trans (putLine_stirred _ _ _ (due_stirred _ _))

theorem modHead_stirred (now : Nat) (r : Rig) (i : HeadIx) (f : Head → Head) (hf : ∀ x, Head.Stirred x (f x)) :
    r.Stirred (r.modHead now i f) := putHead_stirred now r i _ (hf _)

theorem touchHead_stirred (r : Rig) (i : HeadIx) (f : Head → Head) (hf : ∀ x, Head.Stirred x (f x)) :
    r.Stirred (r.touchHead i f) := upd_head_stirred r i _ (hf _)

theorem modSlot_stirred (r : Rig) (k : SlotIx) (f : Running → Running) (hf : ∀ x, (f x).cue = x.cue) :
    r.Stirred (r.modSlot k f) := by
  refine ⟨rfl, rfl, rfl, fun _ => .refl _, fun _ => .refl _, fun j => ?_⟩
  show ((upd r.slots k ((r.slots.get k).map f)).get j).map Running.cue = _
  rw [upd_get]
  split
  · next e =>
    subst e
    cases r.slots.get j with
    | none => rfl
    | some x => simp [hf]
  · rfl

theorem lookChange_stirred (now : Nat) (r : Rig) (h : HeadIx) : r.Stirred (r.lookChange now h) := by
  unfold Rig.lookChange
  split
  · exact .refl r
  split
  · exact .refl r
  · exact modLine_stirred r _ _ fun x => due_stirred x _

/-- The heads that take LOOK frames are those in ACTIVE and FAULT. -/
theorem Head.lit_iff (u : Head) : u.lit ↔ u.avail.lookable = true := by
  unfold Head.lit
  cases u.avail <;> simp [Avail.lookable]

@[simp] theorem putLine_heads (r : Rig) (l : LineIx) (x : Line) : (r.putLine l x).heads = r.heads := by
  unfold Rig.putLine
  split <;> rfl

@[simp] theorem putLine_lines (r : Rig) (l : LineIx) (x : Line) : (r.putLine l x).lines = upd r.lines l x := by
  unfold Rig.putLine
  split <;> rfl

@[simp] theorem modLine_heads (r : Rig) (l : LineIx) (f : Line → Line) : (r.modLine l f).heads = r.heads :=
  putLine_heads r l _

@[simp] theorem modLine_lines (r : Rig) (l : LineIx) (f : Line → Line) :
    (r.modLine l f).lines = upd r.lines l (f (r.lines.get l)) := putLine_lines r l _

@[simp] theorem lookChange_heads (now : Nat) (r : Rig) (h : HeadIx) : (r.lookChange now h).heads = r.heads := by
  unfold Rig.lookChange
  split
  · rfl
  split <;> simp

/-- A look change has no effect on a head that takes no LOOK (R29). -/
theorem lookChange_unlit (now : Nat) (r : Rig) (h : HeadIx) (u : ¬(r.heads.get h).lit) : r.lookChange now h = r := by
  rw [Head.lit_iff, Bool.not_eq_true] at u
  simp [Rig.lookChange, u]

/-- It makes the refresh of one that does due now (R29, R97). -/
theorem lookChange_due (now : Nat) (r : Rig) (h : HeadIx) (b : Binding) (u : (r.heads.get h).lit)
    (e : (r.heads.get h).binding = some b) :
    ((r.lookChange now h).lines.get b.line).refreshDue.get b.address =
      ((r.lines.get b.line).refreshDue.get b.address).map (min now) := by
  rw [Head.lit_iff] at u
  simp [Rig.lookChange, u, e]

/-! ### Queues (R92 to R96) -/

theorem Line.refill_stirred (x : Line) : Line.Stirred x x.refill := by
  refine ⟨⟨_, _, _, _, _, _, _, _, _, _, _, _, rfl⟩, fun h => ?_⟩
  obtain ⟨hq, ho⟩ := h
  constructor
  · simp only [Line.refill, List.length_append, List.length_map, List.length_take]
    omega
  · simp only [Line.refill, List.length_drop]
    omega

theorem Line.request_stirred (x : Line) (a : AddrIx) (c : Command) : Line.Stirred x (x.request a c) := by
  unfold Line.request
  split
  · exact .refl x
  · split
    · exact .refl x
    · split
      · refine ⟨⟨_, _, _, _, _, _, _, _, _, _, _, _, rfl⟩, fun h => ⟨?_, h.2⟩⟩
        simpa using h.1
      · split
        · exact ⟨⟨_, _, _, _, _, _, _, _, _, _, _, _, rfl⟩, id⟩
        · next hfull =>
          refine ⟨⟨_, _, _, _, _, _, _, _, _, _, _, _, rfl⟩, fun h => ⟨?_, h.2⟩⟩
          simp only [Bool.or_eq_true, decide_eq_true_eq, not_or, Nat.not_le] at hfull
          simp only [List.length_append, List.length_cons, List.length_nil]
          omega

theorem Line.withdraw_stirred (x : Line) (a : AddrIx) (h : HeadIx) (p : Command → Bool) :
    Line.Stirred x (x.withdraw a h p) := by
  unfold Line.withdraw
  dsimp only
  refine Line.Stirred.trans ?_ (Line.refill_stirred _)
  exact ⟨⟨_, _, _, _, _, _, _, _, _, _, _, _, rfl⟩, fun hf => ⟨(List.length_filter_le _ _).trans hf.1, hf.2⟩⟩

theorem Line.purge_stirred (x : Line) : Line.Stirred x x.purge :=
  ⟨⟨_, _, _, _, _, _, _, _, _, _, _, _, rfl⟩, fun _ => ⟨by simp [Line.purge], by simp [Line.purge]⟩⟩

theorem Line.withdrawLatch_stirred (x : Line) (n : SlotIx) : Line.Stirred x (x.withdrawLatch n) := by
  unfold Line.withdrawLatch
  refine Line.Stirred.trans ?_ (Line.refill_stirred _)
  exact ⟨⟨_, _, _, _, _, _, _, _, _, _, _, _, rfl⟩,
    fun hf => ⟨(List.length_filter_le _ _).trans hf.1, (List.length_filter_le _ _).trans hf.2⟩⟩

theorem request_stirred (r : Rig) (h : HeadIx) (c : Command) : r.Stirred (r.request h c) := by
  unfold Rig.request
  split
  · exact .refl r
  · exact modLine_stirred r _ _ fun x => x.request_stirred _ _

theorem withdraw_stirred (r : Rig) (h : HeadIx) (p : Command → Bool) : r.Stirred (r.withdraw h p) := by
  unfold Rig.withdraw
  split
  · exact .refl r
  · exact modLine_stirred r _ _ fun x => x.withdraw_stirred _ _ _

theorem work_stirred (x : Line) (w : Work) : Line.Stirred x { x with work := w } :=
  ⟨⟨_, _, _, _, _, _, _, _, _, _, _, _, rfl⟩, id⟩

theorem stopAim_stirred (r : Rig) (h : HeadIx) : r.Stirred (r.stopAim h) := by
  unfold Rig.stopAim
  split
  · exact .refl r
  · exact modLine_stirred r _ _ fun x => work_stirred x _

theorem withdrawLatch_stirred (r : Rig) (n : SlotIx) : r.Stirred (r.withdrawLatch n) := by
  refine ⟨rfl, rfl, rfl, fun _ => .refl _, fun l => ?_, fun _ => rfl⟩
  show Line.Stirred _ ((r.lines.map _).get l)
  rw [map_get]
  exact Line.withdrawLatch_stirred _ n

/-! ### Endings and gatherings (R80, R83, R84, R94, R149) -/

theorem Head.widen_stirred (x : Head) (p : Point) : Head.Stirred x (x.widen p) :=
  ⟨_, _, _, _, _, _, _, _, _, _, _, _, _, rfl⟩

theorem report_cue (o : MoveOutcome) (x : Running) : (Running.report o x).cue = x.cue := rfl

theorem dropMove_stirred (now : Nat) (r : Rig) (h : HeadIx) (m : Move) (o : MoveOutcome) :
    r.Stirred (r.dropMove now h m o) := by
  unfold Rig.dropMove
  dsimp only
  have h1 : r.Stirred (r.modHead now h fun x => { x with move := none, lastOutcome := some o }) :=
    modHead_stirred now r h _ fun _ => ⟨_, _, _, _, _, _, _, _, _, _, _, _, _, rfl⟩
  generalize (r.modHead now h fun x => { x with move := none, lastOutcome := some o }) = r1 at h1
  have h2 : r.Stirred (if o = .overtaken then r1 else r1.withdraw h (fun c => c == .aim h)) := by
    split
    · exact h1
    · exact h1.trans (withdraw_stirred _ _ _)
  generalize (if o = .overtaken then r1 else r1.withdraw h (fun c => c == .aim h)) = r2 at h2
  have h3 : r.Stirred (if m.state = .onWire then r2.stopAim h else r2) := by
    split
    · exact h2.trans (stopAim_stirred _ _)
    · exact h2
  generalize (if m.state = .onWire then r2.stopAim h else r2) = r3 at h3
  split
  · exact h3.trans (modSlot_stirred _ _ _ (report_cue o))
  · exact h3

theorem failStaged_stirred (now : Nat) (r : Rig) (l : LineIx) (n : SlotIx) : r.Stirred (r.failStaged now l n) := by
  unfold Rig.failStaged
  refine Rig.Stirred.fold _ (fun r h => ?_) _ r
  split
  · split
    · exact (modHead_stirred now r h _ fun _ => ⟨_, _, _, _, _, _, _, _, _, _, _, _, _, rfl⟩).trans
        (dropMove_stirred _ _ _ _ _)
    · exact .refl r
  · exact .refl r

theorem requestLatch_stirred (now : Nat) (r : Rig) (l : LineIx) (n : SlotIx) :
    r.Stirred (r.requestLatch now l n) := by
  unfold Rig.requestLatch
  dsimp only
  split
  · exact .refl r
  · split
    · exact .refl r
    · split
      · next hl =>
        refine putLine_stirred r l _ ?_
        refine ⟨⟨_, _, _, _, _, _, _, _, _, _, _, _, rfl⟩, fun h => ⟨?_, h.2⟩⟩
        simp only [List.length_append, List.length_cons, List.length_nil]
        omega
      · split
        · next hl =>
          refine putLine_stirred r l _ ?_
          refine ⟨⟨_, _, _, _, _, _, _, _, _, _, _, _, rfl⟩, fun h => ⟨h.1, ?_⟩⟩
          simp only [List.length_append, List.length_cons, List.length_nil]
          omega
        · exact failStaged_stirred now r l n

theorem latchGathering_stirred (now : Nat) (r : Rig) (k : SlotIx) (lines : Vector Bool 16) (b : Bool) :
    r.Stirred (r.latchGathering now k lines b) := by
  unfold Rig.latchGathering
  dsimp only
  have h1 := modSlot_stirred r k
    (fun x => { x with gathering := { x.gathering with state := .latched, deadline := none } }) fun _ => rfl
  generalize (r.modSlot k fun x => { x with gathering := { x.gathering with state := .latched, deadline := none } }) = r1
    at h1
  have h2 := h1.trans (Rig.Stirred.fold (fun r l => r.requestLatch now l k)
    (fun r l => requestLatch_stirred now r l k) ((List.finRange 16).filter fun l => lines.get l) r1)
  split
  · refine h2.trans (heads_stirred _ _ fun i => ?_)
    rw [map_get]
    exact ⟨_, _, _, _, _, _, _, _, _, _, _, _, _, rfl⟩
  · exact h2

theorem gathered_stirred (now : Nat) (r : Rig) (k : SlotIx) (line : Option LineIx) :
    r.Stirred (r.gathered now k line) := by
  unfold Rig.gathered
  split
  · split
    · dsimp only
      split
      · refine Rig.Stirred.trans ?_ (latchGathering_stirred _ _ _ _ _)
        exact modSlot_stirred r k _ (fun _ => by rfl)
      · exact modSlot_stirred r k _ (fun _ => by rfl)
    · exact .refl r
  · exact .refl r

theorem offered_stirred (r : Rig) (o : List SlotIx) : r.Stirred { r with offered := o } :=
  ⟨rfl, rfl, rfl, fun _ => .refl _, fun _ => .refl _, fun _ => rfl⟩

theorem retireIfDone_stirred (r : Rig) (k : SlotIx) : r.Stirred (r.retireIfDone k) := by
  unfold Rig.retireIfDone
  split
  · split
    · refine Rig.Stirred.trans ?_ (offered_stirred _ _)
      refine Rig.Stirred.trans ?_ (withdrawLatch_stirred _ k)
      exact modSlot_stirred r k _ (fun _ => by rfl)
    · exact .refl _
  · exact .refl _

theorem endMove_stirred (now : Nat) (r : Rig) (h : HeadIx) (o : MoveOutcome) : r.Stirred (r.endMove now h o) := by
  unfold Rig.endMove
  split
  · exact .refl r
  · next m _ =>
    have h1 := dropMove_stirred now r h m o
    dsimp only
    split
    · exact h1
    · next k _ =>
      refine Rig.Stirred.trans ?_ (retireIfDone_stirred _ k)
      split
      · exact h1.trans (gathered_stirred _ _ _ _)
      · exact h1

/-! ### New moves (R61 to R66, R79) -/

theorem overtake_stirred (now : Nat) (r : Rig) (h : HeadIx) : r.Stirred (r.overtake now h) := by
  unfold Rig.overtake
  split
  · exact .refl r
  · dsimp only
    refine Rig.Stirred.trans ?_ (endMove_stirred _ _ _ _)
    split
    · exact modHead_stirred now r h _ fun _ => ⟨_, _, _, _, _, _, _, _, _, _, _, _, _, rfl⟩
    · exact .refl r

theorem startMove_stirred (now : Nat) (r : Rig) (h : HeadIx) (o : Handover) (m : Move) :
    r.Stirred (r.startMove now h o m) := by
  obtain ⟨target, time, cue, staged⟩ := o
  unfold Rig.startMove
  refine (overtake_stirred now r h).trans ?_
  generalize r.overtake now h = r1
  cases cue with
  | none =>
    refine Rig.Stirred.trans ?_ (request_stirred _ _ _)
    exact modHead_stirred now r1 h _ fun _ => ⟨_, _, _, _, _, _, _, _, _, _, _, _, _, rfl⟩
  | some k =>
    refine Rig.Stirred.trans ?_ (request_stirred _ _ _)
    refine Rig.Stirred.trans ?_ (modSlot_stirred _ k _ (fun _ => by rfl))
    exact modHead_stirred now r1 h _ fun _ => ⟨_, _, _, _, _, _, _, _, _, _, _, _, _, rfl⟩

theorem handOver_stirred (now : Nat) (r : Rig) (h : HeadIx) (o : Handover) : r.Stirred (r.handOver now h o).1 := by
  unfold Rig.handOver
  split
  · exact modHead_stirred now r h _ fun _ => ⟨_, _, _, _, _, _, _, _, _, _, _, _, _, rfl⟩
  · exact startMove_stirred now r h o _

/-! ### Lamps, parked evaluations, replies to an AIM, settlements -/

theorem setPending_stirred (r : Rig) (h : HeadIx) (b : Bool) : r.Stirred (r.setPending h b) :=
  touchHead_stirred r h _ fun _ => ⟨_, _, _, _, _, _, _, _, _, _, _, _, _, rfl⟩

theorem strikeRequest_stirred (r : Rig) (h : HeadIx) : r.Stirred (r.strikeRequest h) := by
  unfold Rig.strikeRequest
  split
  · exact .refl r
  · split
    · exact setPending_stirred r h _
    · split
      · exact request_stirred r h _
      · exact withdraw_stirred r h _
      · exact withdraw_stirred r h _
      · exact setPending_stirred r h _

theorem douseRequest_stirred (r : Rig) (h : HeadIx) : r.Stirred (r.douseRequest h) := by
  unfold Rig.douseRequest
  split
  · exact .refl r
  · dsimp only
    have h1 := setPending_stirred r h false
    split
    · exact h1
    · split
      · exact h1.trans (request_stirred _ _ _)
      · exact h1.trans (request_stirred _ _ _)
      · exact h1.trans (withdraw_stirred _ _ _)
      · exact h1

theorem lampRequest_stirred (r : Rig) (h : HeadIx) (q : LampReq) : r.Stirred (r.lampRequest h q) := by
  cases q
  · exact .refl r
  · exact strikeRequest_stirred r h
  · exact douseRequest_stirred r h

theorem holdStrike_stirred (r : Rig) (h : HeadIx) : r.Stirred (r.holdStrike h) := by
  unfold Rig.holdStrike
  split
  · exact (withdraw_stirred r h _).trans (setPending_stirred _ _ _)
  · exact .refl r

theorem strikePendingNow_stirred (r : Rig) (h : HeadIx) : r.Stirred (r.strikePendingNow h) := by
  unfold Rig.strikePendingNow
  split
  · exact (setPending_stirred r h _).trans (request_stirred _ _ _)
  · exact .refl r

theorem evaluateParked_stirred (now : Nat) (r : Rig) (h : HeadIx) : r.Stirred (r.evaluateParked now h) := by
  unfold Rig.evaluateParked
  split
  · exact .refl r
  · exact modHead_stirred now r h _ fun _ => ⟨_, _, _, _, _, _, _, _, _, _, _, _, _, rfl⟩

theorem clearTransit_stirred (now : Nat) (r : Rig) (h : HeadIx) : r.Stirred (r.clearTransit now h) :=
  modHead_stirred now r h _ fun _ => ⟨_, _, _, _, _, _, _, _, _, _, _, _, _, rfl⟩

theorem stagedNow_stirred (now : Nat) (r : Rig) (h : HeadIx) (l : LineIx) (n : Nat) :
    r.Stirred (r.stagedNow now h l n) := by
  unfold Rig.stagedNow
  dsimp only
  have h1 := touchHead_stirred r h (fun x => { x with
    move := x.move.map fun m => { m with state := .staged, travel := some n } })
    fun _ => ⟨_, _, _, _, _, _, _, _, _, _, _, _, _, rfl⟩
  generalize (r.touchHead h fun x => { x with
    move := x.move.map fun m => { m with state := .staged, travel := some n } }) = r1 at h1
  split
  · exact h1
  · refine Rig.Stirred.trans ?_ (retireIfDone_stirred _ _)
    split
    · exact h1.trans (requestLatch_stirred _ _ _ _)
    · exact h1.trans (gathered_stirred _ _ _ _)

theorem aimFailed_stirred (now : Nat) (r : Rig) (h : HeadIx) (a : AimSent) : r.Stirred (r.aimFailed now h a) := by
  unfold Rig.aimFailed
  split
  · exact (modHead_stirred now r h _ fun _ => ⟨_, _, _, _, _, _, _, _, _, _, _, _, _, rfl⟩).trans
      (endMove_stirred _ _ _ _)
  · exact .refl r

theorem aimAccepted_stirred (now : Nat) (r : Rig) (h : HeadIx) (l : LineIx) (a : AimSent) (n : Nat) :
    r.Stirred (r.aimAccepted now h l a n) := by
  unfold Rig.aimAccepted
  split
  · split
    · exact stagedNow_stirred now r h l n
    · exact modHead_stirred now r h _ fun _ => ⟨_, _, _, _, _, _, _, _, _, _, _, _, _, rfl⟩
  · refine modHead_stirred now r h _ fun x => ?_
    split
    · exact ⟨_, _, _, _, _, _, _, _, _, _, _, _, _, rfl⟩
    · exact ⟨_, _, _, _, _, _, _, _, _, _, _, _, _, rfl⟩

theorem legReached_stirred (now : Nat) (r : Rig) (h : HeadIx) (q : Option Seq) : r.Stirred (r.legReached now h q) := by
  unfold Rig.legReached
  split
  · exact .refl r
  · split
    · split
      · exact (touchHead_stirred r h _ fun _ => ⟨_, _, _, _, _, _, _, _, _, _, _, _, _, rfl⟩).trans
          (request_stirred _ _ _)
      · exact endMove_stirred now r h _
    · exact .refl r

theorem settlement_stirred (now : Nat) (r : Rig) (h : HeadIx) (a : Accepted) : r.Stirred (r.settlement now h a) := by
  unfold Rig.settlement
  dsimp only
  refine Rig.Stirred.trans ?_ (evaluateParked_stirred _ _ _)
  have h1 := (modHead_stirred now r h (fun x => { x with settled := true, hull := some a.point.box })
    fun _ => ⟨_, _, _, _, _, _, _, _, _, _, _, _, _, rfl⟩).trans (legReached_stirred now _ h a.seq)
  split
  · exact h1
  · exact h1.trans (clearTransit_stirred _ _ _)

/-! ### Fired entries (R33, R34, R82) -/

theorem setGathering_stirred (now : Nat) (r : Rig) (k : SlotIx) : r.Stirred (r.setGathering now k) := by
  unfold Rig.setGathering
  split
  · exact .refl r
  · dsimp only
    split
    · refine Rig.Stirred.trans ?_ (latchGathering_stirred _ _ _ _ _)
      exact modSlot_stirred r k _ (fun _ => by rfl)
    · exact modSlot_stirred r k _ (fun _ => by rfl)

theorem count_stirred (r : Rig) (k : SlotIx) (f : Counts → Counts) : r.Stirred (r.count k f) :=
  modSlot_stirred r k _ (fun _ => by rfl)

/-! ### Frames begun -/

theorem Head.Moved.stirred {x y : Head} (h : Head.Moved x y) : Head.Stirred x y := by
  obtain ⟨⟨_, _, _, _, rfl⟩, _⟩ := h
  exact ⟨_, _, _, _, _, _, _, _, _, _, _, _, _, rfl⟩

end Sys2Proof.Machine
end

