-- ==== Sys2Proof/Laws/Cues.lean ====
section
/-! SUPPORT. What the handling of the pending list can do (`State.runCues`): cues leave from the front, slots are taken,
heads get cells and moves, updates are listed; everything else stays. -/

namespace Sys2Proof.Machine

/-! ### A fired entry, a fired cue -/

/-- A head as the firing of cues may leave it: stirred, with other cells. -/
def Head.Cued (x y : Head) : Prop :=
  ∃ ac se hu sq gt gp st lo lr lt cr br mv sp lp sc lc sb lb, y = { x with
    accepted := ac, settled := se, hull := hu, nextAim := sq, guard := { x.guard with transit := gt, parked := gp }
    strikePending := st, lastOutcome := lo, lastRefused := lr, lastCueTag := lt, colRelease := cr, beamRelease := br
    move := mv, showPos := sp, livePos := lp, showCol := sc, liveCol := lc, showBeam := sb, liveBeam := lb }

/-- What the firing of cues leaves of the fixture side; a slot once taken keeps its cue. -/
structure Rig.Cued (r r' : Rig) : Prop where
  profiles : r'.profiles = r.profiles
  sectors : r'.sectors = r.sectors
  members : r'.members = r.members
  head : ∀ h, Head.Cued (r.heads.get h) (r'.heads.get h)
  line : ∀ l, Line.Stirred (r.lines.get l) (r'.lines.get l)
  slot : ∀ k x, r.slots.get k = some x → (r'.slots.get k).map Running.cue = some x.cue

theorem Head.Stirred.cued {x y : Head} (h : Head.Stirred x y) : Head.Cued x y := by
  obtain ⟨_, _, _, _, _, _, _, _, _, _, _, _, _, rfl⟩ := h
  exact ⟨_, _, _, _, _, _, _, _, _, _, _, _, _, _, _, _, _, _, _, rfl⟩

theorem Head.Cued.trans {x y z : Head} (h : Head.Cued x y) (k : Head.Cued y z) : Head.Cued x z := by
  obtain ⟨_, _, _, _, _, _, _, _, _, _, _, _, _, _, _, _, _, _, _, rfl⟩ := h
  obtain ⟨_, _, _, _, _, _, _, _, _, _, _, _, _, _, _, _, _, _, _, rfl⟩ := k
  exact ⟨_, _, _, _, _, _, _, _, _, _, _, _, _, _, _, _, _, _, _, rfl⟩

theorem Rig.Stirred.cued {r r' : Rig} (h : r.Stirred r') : r.Cued r' :=
  ⟨h.profiles, h.sectors, h.members, fun i => (h.head i).cued, h.line, fun k x hx => by rw [h.slot k, hx]; rfl⟩

theorem Rig.Cued.refl (r : Rig) : r.Cued r := (Rig.Stirred.refl r).cued

theorem Rig.Cued.trans {r s t : Rig} (h : r.Cued s) (k : s.Cued t) : r.Cued t := by
  refine ⟨k.profiles.trans h.profiles, k.sectors.trans h.sectors, k.members.trans h.members,
    fun x => (h.head x).trans (k.head x), fun x => (h.line x).trans (k.line x), fun j x hx => ?_⟩
  have h1 := h.slot j x hx
  cases hs : s.slots.get j with
  | none => rw [hs] at h1; simp at h1
  | some y =>
    rw [hs] at h1
    have h2 := k.slot j y hs
    simp only [Option.map_some, Option.some.injEq] at h1
    rw [h2, h1]

theorem setCells_cued (now : Nat) (layer : Layer) (k : SlotIx) (e : Entry) (x : Head) :
    Head.Cued x (x.setCells now layer k e) := by
  have hc : ∀ (q : EntryCol) (y : Head), Head.Cued y (Head.setColour now layer k q y) := by
    intro q y
    cases layer <;> exact ⟨_, _, _, _, _, _, _, _, _, _, _, _, _, _, _, _, _, _, _, rfl⟩
  have hb : ∀ (q : EntryBeam) (y : Head), Head.Cued y (Head.setBeam now layer k q y) := by
    intro q y
    cases layer <;> exact ⟨_, _, _, _, _, _, _, _, _, _, _, _, _, _, _, _, _, _, _, rfl⟩
  have hp : ∀ (q : EntryPos) (y : Head), Head.Cued y (Head.setPosition layer k q y) := by
    intro q y
    cases layer <;> exact ⟨_, _, _, _, _, _, _, _, _, _, _, _, _, _, _, _, _, _, _, rfl⟩
  have given : ∀ {α : Type} (o : Option α) (f : α → Head → Head) (y : Head),
      (∀ a y, Head.Cued y (f a y)) → Head.Cued y (Head.given o f y) := by
    intro α o f y hf
    cases o with
    | none => exact (Head.Stirred.refl y).cued
    | some a => exact hf a y
  exact ((given e.colour _ x hc).trans (given e.beam _ _ hb)).trans (given e.position _ _ hp)

theorem touchHead_cued (r : Rig) (i : HeadIx) (f : Head → Head) (hf : ∀ x, Head.Cued x (f x)) :
    r.Cued (r.touchHead i f) := by
  refine ⟨rfl, rfl, rfl, fun h => ?_, fun _ => .refl _, fun k x hx => by rw [show (r.touchHead i f).slots = r.slots from rfl, hx]; rfl⟩
  rw [Rig.touchHead_heads]
  split
  · next e => subst e; exact hf _
  · exact (Head.Stirred.refl _).cued

theorem applyEntry_cued (now : Nat) (layer : Layer) (k : SlotIx) (together : Bool) (r : Rig) (e : Entry) :
    r.Cued (Rig.applyEntry now layer k together r e) := by
  unfold Rig.applyEntry
  dsimp only
  split
  · exact (count_stirred r k _).cued
  · have h1 : r.Cued (r.touchHead e.head (Head.setCells now layer k e)) :=
      touchHead_cued r e.head _ fun x => setCells_cued now layer k e x
    generalize r.touchHead e.head (Head.setCells now layer k e) = r1 at h1
    have h2 : r.Cued (if e.colour.isSome || e.beam.isSome then r1.lookChange now e.head else r1) := by
      split
      · exact h1.trans (lookChange_stirred now r1 e.head).cued
      · exact h1
    generalize (if e.colour.isSome || e.beam.isSome then r1.lookChange now e.head else r1) = r2 at h2
    have h3 := h2.trans (lampRequest_stirred r2 e.head e.lamp).cued
    generalize r2.lampRequest e.head e.lamp = r3 at h3
    split
    · exact h3.trans (count_stirred r3 k _).cued
    · split
      · exact h3.trans (count_stirred r3 k _).cued
      · next p _ =>
        split
        · have h4 := h3.trans (handOver_stirred now r3 e.head ⟨p.target, p.moveTime, some k, together⟩).cued
          split
          · exact h4
          · exact h4.trans (count_stirred _ k _).cued
        · exact h3.trans (count_stirred r3 k _).cued

theorem applyEntries_cued (now : Nat) (layer : Layer) (k : SlotIx) (together : Bool) (es : List Entry) (r : Rig) :
    r.Cued (es.foldl (Rig.applyEntry now layer k together) r) := by
  induction es generalizing r with
  | nil => exact .refl r
  | cons e es ih => exact (applyEntry_cued now layer k together r e).trans (ih _)

theorem takeSlot_cued (r : Rig) (k : SlotIx) (x : Running) (h : r.slots.get k = none) :
    r.Cued { r with slots := upd r.slots k (some x) } := by
  refine ⟨rfl, rfl, rfl, fun _ => (Head.Stirred.refl _).cued, fun _ => .refl _, fun j y hy => ?_⟩
  show ((upd r.slots k (some x)).get j).map Running.cue = _
  rw [upd_get]
  split
  · next e => subst e; rw [h] at hy; cases hy
  · rw [hy]; rfl

/-- A cue fired into a free slot. -/
theorem fireCue_cued (now : Nat) (r : Rig) (k : SlotIx) (c : Cue) (x : Running) (h : r.slots.get k = none) :
    r.Cued (r.fireCue now k c x) ∧ ((r.fireCue now k c x).slots.get k).map Running.cue = some x.cue := by
  have h1 := takeSlot_cued r k x h
  have hx : ({ r with slots := upd r.slots k (some x) } : Rig).slots.get k = some x := upd_get_same _ _ _
  have h2 : ({ r with slots := upd r.slots k (some x) } : Rig).Cued (r.fireCue now k c x) := by
    unfold Rig.fireCue
    dsimp only
    refine Rig.Cued.trans ?_ (retireIfDone_stirred _ k).cued
    refine Rig.Cued.trans ?_ (modSlot_stirred _ k _ (fun _ => by rfl)).cued
    have h3 := applyEntries_cued now c.layer k c.together c.entries { r with slots := upd r.slots k (some x) }
    split
    · exact h3.trans (setGathering_stirred now _ k).cued
    · exact h3
  exact ⟨h1.trans h2, h2.slot k x hx⟩

theorem freeSlot_none (r : Rig) (k : SlotIx) (h : r.freeSlot = some k) : r.slots.get k = none := by
  have := List.find?_some h
  simpa using this

/-! ### The pending list handled -/

/-- What the handling of the pending list leaves. -/
structure State.Ran (s t : State) : Prop where
  pending : t.pending = s.pending
  micros : t.micros = s.micros
  regs : ∃ b, t.regs = { s.regs with latch := { s.regs.latch with capacity := b } }
  chain : t.chain = s.chain
  bus : t.bus = s.bus
  clock : t.clock = s.clock
  wb : ∃ us, t.wb = { s.wb with list := s.wb.list ++ us }
  fits : s.listFits → t.listFits
  cues : t.cues.map Cue.tag <:+ s.cues.map Cue.tag
  rig : s.rig.Cued t.rig

theorem State.Ran.refl (s : State) : s.Ran s :=
  ⟨rfl, rfl, ⟨_, rfl⟩, rfl, rfl, rfl, ⟨[], by simp⟩, id, List.suffix_refl _, .refl _⟩

theorem State.Ran.trans {s t u : State} (h : s.Ran t) (k : t.Ran u) : s.Ran u := by
  obtain ⟨_, hr⟩ := h.regs
  obtain ⟨_, kr⟩ := k.regs
  obtain ⟨us, hw⟩ := h.wb
  obtain ⟨vs, kw⟩ := k.wb
  exact ⟨k.pending.trans h.pending, k.micros.trans h.micros, ⟨_, by rw [kr, hr]⟩, k.chain.trans h.chain,
    k.bus.trans h.bus, k.clock.trans h.clock, ⟨us ++ vs, by rw [kw, hw]; simp⟩, k.fits ∘ h.fits,
    k.cues.trans h.cues, h.rig.trans k.rig⟩

theorem givePlaces_listFits (s : State) (h : s.listFits) : s.givePlaces.listFits := by
  unfold State.listFits at *
  simp only [State.givePlaces, WriteBack.free, List.length_append]
  have h1 := List.length_filterMap_le (fun k => (s.rig.slots.get k).map (Running.finalUpdate k))
    (s.rig.offered.take (Config.writeBackPlaces - s.wb.list.length))
  have h2 := List.length_take_le (Config.writeBackPlaces - s.wb.list.length) s.rig.offered
  omega

theorem givePlaces_ran (s : State) : s.Ran s.givePlaces :=
  ⟨rfl, rfl, ⟨_, rfl⟩, rfl, rfl, rfl, ⟨_, rfl⟩, givePlaces_listFits s, List.suffix_refl _,
    (Rig.Stirred.cued (offered_stirred s.rig _))⟩

theorem fire_ran (s : State) (k : SlotIx) (c : Cue) (rest : List Cue) (hc : s.cues = c :: rest)
    (hk : s.rig.freeSlot = some k) : s.Ran (s.fire k c rest) := by
  refine ⟨rfl, rfl, ⟨_, rfl⟩, rfl, rfl, rfl, ⟨[], by simp⟩, id, ?_, ?_⟩
  · rw [hc]; exact List.suffix_cons _ _
  · exact (fireCue_cued s.now s.rig k c _ (freeSlot_none _ _ hk)).1

theorem passOver_ran (s : State) (c : Cue) (rest : List Cue) (hc : s.cues = c :: rest) (hf : 0 < s.wb.free) :
    s.Ran (s.passOver c rest) := by
  refine ⟨rfl, rfl, ⟨_, rfl⟩, rfl, rfl, rfl, ⟨_, rfl⟩, fun h => ?_, ?_, .refl _⟩
  · unfold State.listFits WriteBack.free at *
    simp only [State.passOver, State.listUpdates, List.length_append, List.length_cons, List.length_nil]
    omega
  · rw [hc]; exact List.suffix_cons _ _

theorem waitForSlot_ran (s : State) (c : Cue) (rest : List Cue) (hc : s.cues = c :: rest) :
    s.Ran (s.waitForSlot c rest) := by
  unfold State.waitForSlot
  split
  · exact .refl s
  · refine ⟨rfl, rfl, ⟨true, rfl⟩, rfl, rfl, rfl, ⟨[], by simp⟩, id, ?_, .refl _⟩
    rw [hc]
    exact List.suffix_refl _

theorem pump_ran (n : Nat) (s : State) : s.Ran (s.pump n) := by
  induction n generalizing s with
  | zero => exact givePlaces_ran s
  | succ n ih =>
    unfold State.pump
    have h0 := givePlaces_ran s
    generalize s.givePlaces = t at h0
    dsimp only
    split
    · exact h0
    · next c rest hc =>
      split
      · split
        · next hf => exact (h0.trans (passOver_ran t c rest hc hf)).trans (ih _)
        · exact h0
      · split
        · split
          · next k hk => exact (h0.trans (fire_ran t k c rest hc hk)).trans (ih _)
          · exact h0.trans (waitForSlot_ran t c rest hc)
        · exact h0

/-- The handling of the pending list can do this and no more. -/
theorem runCues_ran (s : State) : s.Ran s.runCues := pump_ran _ s

/-- With nothing pending only free places are given. -/
theorem runCues_nil (s : State) (h : s.cues = []) : s.runCues = s.givePlaces := by simp [State.runCues, h, State.pump]

/-- A waiting pending list is left as it is; free places are given. -/
theorem runCues_still (s : State) (h : s.cuesStill) : s.runCues = s.givePlaces := by
  obtain ⟨hf, hd⟩ := h
  unfold State.runCues
  cases hc : s.cues with
  | nil => rfl
  | cons c rest =>
    have h1 : c.dropped = false := hd c (by simp [hc])
    have h2 : s.givePlaces.dueToFire c = false := by simp [State.dueToFire, hf]
    simp only [List.length_cons, State.pump, givePlaces_cues, hc, h1, h2, Bool.false_eq_true, if_false]

end Sys2Proof.Machine
end

