-- ==== Sys2Proof/WellFormed.lean ====
section
/-! DEFINITION. Which commands are of their row: a write that is of no other row, a read of the length its row reads, a
reception no longer than the longest frame and of the kind its row names. -/

namespace Sys2Proof

/-- The command codes of CONTROL (11.2). -/
def controlCodes : List Nat := [0x01, 0x02, 0x0F, 0x10, 0x11]

/-- A 32-bit write at one of these offsets is a row of its own (11.2). -/
def writtenOffsets : List Nat := [0x08, 0x0C, 0x10, 0x14, 0x20]

/-- A write that R178 ignores: to no register that takes writes, of another width than 32 bits, or to CONTROL with an
unknown code. -/
def otherWrite (offset width : Nat) (value : Word) : Bool :=
  !(width == 4 && (writtenOffsets.contains offset ||
    (offset == 0 && controlCodes.contains (value.toNat % 256))))

/-- The longest frame: four bytes of head, 16 of payload, two of CRC (R113). -/
def longestFrame : Nat := 22

/-- A frame received to its end names this kind in its second byte. -/
def frameOfKind (kind : Nat) (frame : Reception) : Bool :=
  frame.cut.isNone && frame.bytes.length ≤ longestFrame && (frame.bytes.getD 1 0).toNat == kind

/-- The command is of its row. -/
def Instr.wf : Instr → Bool
  | .registerWriteOther o w v => otherWrite o w v
  | .headerRead b => b.length == Config.headerBytes
  | .linkRead b => b.length == 8
  | .recordHeadRead b => b.length == Config.recordHeadBytes
  | .recordBodyRead b => decide (0 < b.length) && decide (b.length ≤ 2048)
  | .timecodeFrame (some t) =>
    decide (t.hours < 100) && decide (t.minutes < 100) && decide (t.seconds < 100) && decide (t.frames < 100)
  | .timecodeFrame none => true
  | .accept _ f => frameOfKind 0x81 f
  | .refuse _ f => frameOfKind 0x82 f
  | .status _ f => frameOfKind 0x83 f
  | .descriptor _ f => frameOfKind 0x84 f
  | .badReply _ f => decide (f.bytes.length ≤ longestFrame)
  | .strayFrame _ f => decide (f.bytes.length ≤ longestFrame)
  | .cardReset | .start | .pause | .softReset | .blackout | .restore | .regionBaseWrite _ _ | .regionSizeWrite _
  | .scanPeriodWrite _ | .attentionTake | .attentionMaskWrite _ | .scanTimer | .cue | .cancel | .release | .patch
  | .unpatch | .clearHead | .profile | .profileRemove | .sector | .sectorRemove | .line | .clockInternal | .clockHalt
  | .clockChase | .unknownKindRecord | .resultWrite | .stateWrite | .mirrorWrite | .headerWrite | .completionTimer
  | .busAccessError | .firing | .passedOver | .showDayEnd | .lossTimer | .freewheelDeadline | .identificationTimer _
  | .strikeTimer _ | .coolingTimer _ | .deadline _ | .latchDeadline _ | .refreshDue _ | .pollPeriodElapsed _
  | .lineQuiet _ | .backoffExpiry _ | .jamHoldExpiry _ | .collision _ | .lookComplete _ | .latchComplete _
  | .attemptSent _ | .replyWindowClose _ => true

end Sys2Proof
end

