-- ==== Sys2Proof/Laws/PerInstr.lean ====
section
/-! SUPPORT. What holds of every command as syntax, one lemma per constructor: the table gives its row no bits, so no word
spells it. -/

namespace Sys2Proof.Laws.Row

/-- No word spells the command. -/
def Statement (i : Instr) : Prop := ∀ nbits w, decodeTableWord nbits w ≠ some i

theorem every (i : Instr) : Statement i := fun _ _ h => by simp [decodeTableWord] at h

theorem cardReset : Statement .cardReset := every _
theorem start : Statement .start := every _
theorem pause : Statement .pause := every _
theorem softReset : Statement .softReset := every _
theorem blackout : Statement .blackout := every _
theorem restore : Statement .restore := every _
theorem regionBaseWrite (half : Half) (value : Word) : Statement (.regionBaseWrite half value) := every _
theorem regionSizeWrite (value : Word) : Statement (.regionSizeWrite value) := every _
theorem scanPeriodWrite (value : Word) : Statement (.scanPeriodWrite value) := every _
theorem attentionTake : Statement .attentionTake := every _
theorem attentionMaskWrite (value : Word) : Statement (.attentionMaskWrite value) := every _
theorem registerWriteOther (offset : Nat) (width : Nat) (value : Word) : Statement (.registerWriteOther offset width value) := every _
theorem headerRead (bytes : List Byte) : Statement (.headerRead bytes) := every _
theorem scanTimer : Statement .scanTimer := every _
theorem linkRead (bytes : List Byte) : Statement (.linkRead bytes) := every _
theorem recordHeadRead (bytes : List Byte) : Statement (.recordHeadRead bytes) := every _
theorem recordBodyRead (bytes : List Byte) : Statement (.recordBodyRead bytes) := every _
theorem cue : Statement .cue := every _
theorem cancel : Statement .cancel := every _
theorem release : Statement .release := every _
theorem patch : Statement .patch := every _
theorem unpatch : Statement .unpatch := every _
theorem clearHead : Statement .clearHead := every _
theorem profile : Statement .profile := every _
theorem profileRemove : Statement .profileRemove := every _
theorem sector : Statement .sector := every _
theorem sectorRemove : Statement .sectorRemove := every _
theorem line : Statement .line := every _
theorem clockInternal : Statement .clockInternal := every _
theorem clockHalt : Statement .clockHalt := every _
theorem clockChase : Statement .clockChase := every _
theorem unknownKindRecord : Statement .unknownKindRecord := every _
theorem resultWrite : Statement .resultWrite := every _
theorem stateWrite : Statement .stateWrite := every _
theorem mirrorWrite : Statement .mirrorWrite := every _
theorem headerWrite : Statement .headerWrite := every _
theorem completionTimer : Statement .completionTimer := every _
theorem busAccessError : Statement .busAccessError := every _
theorem firing : Statement .firing := every _
theorem passedOver : Statement .passedOver := every _
theorem showDayEnd : Statement .showDayEnd := every _
theorem timecodeFrame (frame : Option Timecode) : Statement (.timecodeFrame frame) := every _
theorem lossTimer : Statement .lossTimer := every _
theorem freewheelDeadline : Statement .freewheelDeadline := every _
theorem identificationTimer (head : Fin 512) : Statement (.identificationTimer head) := every _
theorem strikeTimer (head : Fin 512) : Statement (.strikeTimer head) := every _
theorem coolingTimer (head : Fin 512) : Statement (.coolingTimer head) := every _
theorem deadline (head : Fin 512) : Statement (.deadline head) := every _
theorem latchDeadline (slot : Fin 64) : Statement (.latchDeadline slot) := every _
theorem refreshDue (line : Fin 16) : Statement (.refreshDue line) := every _
theorem pollPeriodElapsed (line : Fin 16) : Statement (.pollPeriodElapsed line) := every _
theorem lineQuiet (line : Fin 16) : Statement (.lineQuiet line) := every _
theorem backoffExpiry (line : Fin 16) : Statement (.backoffExpiry line) := every _
theorem jamHoldExpiry (line : Fin 16) : Statement (.jamHoldExpiry line) := every _
theorem collision (line : Fin 16) : Statement (.collision line) := every _
theorem lookComplete (line : Fin 16) : Statement (.lookComplete line) := every _
theorem latchComplete (line : Fin 16) : Statement (.latchComplete line) := every _
theorem attemptSent (line : Fin 16) : Statement (.attemptSent line) := every _
theorem replyWindowClose (line : Fin 16) : Statement (.replyWindowClose line) := every _
theorem accept (line : Fin 16) (frame : Reception) : Statement (.accept line frame) := every _
theorem refuse (line : Fin 16) (frame : Reception) : Statement (.refuse line frame) := every _
theorem status (line : Fin 16) (frame : Reception) : Statement (.status line frame) := every _
theorem descriptor (line : Fin 16) (frame : Reception) : Statement (.descriptor line frame) := every _
theorem badReply (line : Fin 16) (frame : Reception) : Statement (.badReply line frame) := every _
theorem strayFrame (line : Fin 16) (frame : Reception) : Statement (.strayFrame line frame) := every _

end Sys2Proof.Laws.Row
end

