-- ==== Sys2Proof/Laws/Ranges.lean ====
section
/-! SUPPORT. The tests of form are the ranges the spec gives: for each record kind, its `formOk` holds exactly when its
fields lie in their ranges. -/

namespace Sys2Proof.Machine

theorem panOk_iff (a : Int) : panOk a = true ↔ panInRange a := by simp [panOk, panInRange]

theorem tiltOk_iff (a : Int) : tiltOk a = true ↔ tiltInRange a := by simp [tiltOk, tiltInRange]

theorem rangesOk_iff (n : Nat) (rs : List (Nat × Nat)) :
    (1 ≤ n ∧ n ≤ 8 ∧ (rs.take n).all rangeOk = true) ↔ rangesGood n rs := by
  simp [rangesGood, rangeOk, List.all_eq_true]

theorem ProfileRec.formOk_iff (x : ProfileRec) : x.formOk = true ↔ x.inRange := by
  simp only [ProfileRec.formOk, ProfileRec.inRange, Bool.and_eq_true, Bool.or_eq_true, panOk_iff, tiltOk_iff,
    decide_eq_true_eq, beq_iff_eq, List.all_eq_true]
  constructor
  · rintro ⟨⟨⟨⟨⟨⟨⟨⟨⟨⟨⟨⟨⟨⟨⟨⟨h1, h2⟩, h3⟩, h4⟩, h5⟩, h6⟩, h7⟩, h8⟩, h9⟩, h10⟩, h11⟩, h12⟩, h13⟩, h14⟩, h15⟩, h16⟩, h17⟩
    exact ⟨h1, h2, h3, h4, h5, h6, h7, h8, h9, h10, by omega, h13, h14, h16, fun c hc => ⟨h15 c hc, h17 c hc⟩⟩
  · rintro ⟨h1, h2, h3, h4, h5, h6, h7, h8, h9, h10, h11, h13, h14, h16, h17⟩
    exact ⟨⟨⟨⟨⟨⟨⟨⟨⟨⟨⟨⟨⟨⟨⟨⟨h1, h2⟩, h3⟩, h4⟩, h5⟩, h6⟩, h7⟩, h8⟩, h9⟩, h10⟩, by omega⟩, by omega⟩, h13⟩, h14⟩,
      fun c hc => (h17 c hc).1⟩, h16⟩, fun c hc => (h17 c hc).2⟩

theorem SectorRec.formOk_iff (x : SectorRec) : x.formOk = true ↔ x.inRange := by
  have box : x.box.inside x.waypoint = true ↔
      x.panMin ≤ x.wayPan ∧ x.wayPan ≤ x.panMax ∧ x.tiltMin ≤ x.wayTilt ∧ x.wayTilt ≤ x.tiltMax := by
    show (decide (x.panMin ≤ x.wayPan) && decide (x.wayPan ≤ x.panMax) && decide (x.tiltMin ≤ x.wayTilt) &&
      decide (x.wayTilt ≤ x.tiltMax)) = true ↔ _
    simp [and_assoc]
  simp only [SectorRec.inRange, ← box, ← rangesOk_iff, ← panOk_iff, ← tiltOk_iff, SectorRec.formOk, Bool.and_eq_true,
    Bool.or_eq_true, decide_eq_true_eq, bne_iff_ne, Bool.not_eq_true']
  cases x.box.inside x.waypoint <;> simp <;> tauto

theorem ReleaseRec.formOk_iff (x : ReleaseRec) : x.formOk = true ↔ x.inRange := by
  simp only [ReleaseRec.inRange, ← rangesOk_iff, ReleaseRec.formOk, Bool.and_eq_true, Bool.or_eq_true, decide_eq_true_eq,
    beq_iff_eq]
  tauto

theorem EntryRec.formOk_iff (e : EntryRec) : e.formOk = true ↔ e.inRange := by
  simp only [EntryRec.inRange, EntryRec.formOk, Bool.and_eq_true, Bool.or_eq_true, decide_eq_true_eq, bne_iff_ne,
    ← panOk_iff, ← tiltOk_iff, Bool.not_eq_true']
  cases e.position <;> cases e.colour <;> cases e.beam <;> simp <;> tauto

theorem CueRec.formOk_iff (c : CueRec) : c.formOk = true ↔ c.inRange := by
  simp only [CueRec.inRange, ← EntryRec.formOk_iff, CueRec.formOk, Bool.and_eq_true, Bool.or_eq_true, decide_eq_true_eq,
    beq_iff_eq, Bool.not_eq_true', List.all_eq_true, show Config.lastShowMs = 86399999 from rfl]
  cases c.goPresent <;> cases c.together <;> simp <;> tauto

end Sys2Proof.Machine
end

