-- ==== Sys2Proof/Tests/Slice0.lean ====
section
/-! SUPPORT. The package's own tests: the form of commands, the worked examples of the spec, small steps of every family
of commands, and for each statement's hypotheses a state that meets them. -/

namespace Sys2Proof.Tests

open Sys2Proof Sys2Proof.Machine

set_option Elab.async false

/-! ### Helpers -/

/-- The command answers a next state of which a test holds. -/
def did (c : Instr) (s : State) (p : State → Bool) : Bool :=
  match exec c s with
  | .next t => p t
  | .fault _ => false
  | .refused _ => false

/-- Bytes of 0. -/
def zeros (n : Nat) : List Byte := List.replicate n 0

/-- A region of 64 KiB with its head mirror at 0x400 and its line mirror at 0x4400. -/
def region : Region := ⟨0, 0x10000, 0x400, 0x4400⟩

/-- READING, a scan in progress, a header update on the bus and another waiting, engine time 20 ms. -/
def reading : State :=
  { State.reset with
    micros := 20000
    regs := { Registers.reset with regionSize := 0x10000 }
    chain := { Chain.reset with engine := .reading, outcome := .ok, region := some region, scan := some 0 }
    bus := { Bus.reset with outstanding := some ⟨.header ⟨0, 0, 0, .halted, .reading⟩, 30000, false⟩ }
    wb := { WriteBack.reset with waiting := some ⟨⟨0, 0, 0, .halted, .reading⟩, 0⟩ } }

/-- An access outstanding, its completion timer run out when `reading`'s time is reached. -/
def onBus (a : Access) (s : State) : State :=
  { s with bus := { s.bus with outstanding := some ⟨a, 20000, false⟩ } }

/-- A record head at an offset. -/
def recHead (kind : Nat) : RecordHead := ⟨0x5000, 0, 7, 1, kind⟩

/-- A record held for its taking. -/
def holding (b : RecordBody) (s : State) : State :=
  { s with chain := { s.chain with holding := some ⟨recHead 0, b⟩ } }

/-- A head, a line, a slot, a profile, a sector put in place. -/
def withHead (i : HeadIx) (h : Head) (s : State) : State :=
  { s with rig := { s.rig with heads := upd s.rig.heads i h } }
def withLine (l : LineIx) (x : Line) (s : State) : State :=
  { s with rig := { s.rig with lines := upd s.rig.lines l x } }
def withSlot (k : SlotIx) (x : Running) (s : State) : State :=
  { s with rig := { s.rig with slots := upd s.rig.slots k (some x) } }
def withProfile (k : ProfileIx) (p : Profile) (s : State) : State :=
  { s with rig := { s.rig with profiles := upd s.rig.profiles k (some p) } }
def withCues (cs : List Cue) (s : State) : State := { s with cues := cs }
def withClock (c : Clock) (s : State) : State := { s with clock := c }

/-- Updates listed. -/
def listed (n : Nat) (s : State) : State :=
  { s with wb := { s.wb with list := List.replicate n ⟨0x5000, .taken, .ok, [], none⟩ } }

/-- A profile with a discharge lamp, three colour components, 270 by 120 degrees. -/
def profile : Profile :=
  ⟨0xABCD, -27000, 27000, -12000, 12000, 180, 90, .discharge, 5, 120, [⟨0, 8, 0⟩, ⟨1, 8, 0⟩, ⟨2, 8, 0⟩]⟩

/-- Address 5 of L2. -/
def binding : Binding := ⟨2, 4, 0, .plus, .plus⟩

/-- A patched head at rest at (0, 0), in an availability state. -/
def head (a : Avail) : Head :=
  { Head.unpatched with
    avail := a, binding := some binding, accepted := some ⟨⟨0, 0⟩, some 9⟩, settled := true
    hull := some ⟨0, 0, 0, 0⟩, nextAim := 10 }

/-- L2 RUNNING and quiet, with head 40 at its address 5. -/
def line : Line :=
  { Line.reset with state := .running, lastPoll := 20, addrMap := upd Line.reset.addrMap 4 (some 40) }

/-- A patched head 40 in a state on a line L2. -/
def rigged (a : Avail) (x : Line) (s : State) : State :=
  withProfile 0 profile (withHead 40 (head a) (withLine 2 x s))

/-- Head 40 is the one that is bound. -/
theorem test_rigged_binding (a : Avail) (x : Line) {h : HeadIx} {b : Binding}
    (e : ((rigged a x reading).rig.heads.get h).binding = some b) : h = 40 ∧ b = binding := by
  have : (rigged a x reading).rig.heads.get h = if h = 40 then head a else Head.unpatched := by
    show (upd reading.rig.heads 40 (head a)).get h = _
    rw [upd_get]
    split
    · rfl
    · simp [reading, State.reset, Rig.reset, Vector.get]
  rw [this] at e
  split at e
  · exact ⟨by assumption, (Option.some.inj e).symm⟩
  · cases e

/-- A slot's contents. -/
def slot : Running :=
  ⟨77, 0x5400, false, 100, 0, 0, 0, 1, ⟨0, 0, 0, 0, 0, 0⟩, false, false, Gathering.none, true, false⟩

/-- A move to (100, 200) of the cue in slot 3. -/
def move (s : MoveState) : Move :=
  ⟨s, ⟨⟨100, 200⟩, 50, some 9⟩, none, .first, false, false, false, none, some 3, none, none, 1⟩

/-- A cue with one entry for head 40. -/
def entry : Entry := ⟨40, none, some ⟨3, #v[1, 2, 3, 0, 0, 0], 0⟩, none, .none⟩
def cue (tag : Tag) (goTime : Nat) : Cue :=
  ⟨tag, 0x5400, .show, goTime, .fire, false, 100, [entry], false, false⟩

/-- An exchange whose reply window is open, closing at 20.4 ms. -/
def exchange (k : ExKind) (a : Option AimSent) : Exchange :=
  ⟨k, 40, 4, 9, a, [], 1, .window 20400, false, false⟩

/-- L2 with work. -/
def working (w : Work) : Line := { line with work := w }

/-- A reply frame of head address 5 with sequence 9. -/
def reply (kind : Nat) (payload : List Byte) : List Byte := frameBytes 5 kind 9 payload

/-- Bytes whose reception began at 20 ms, as the reply window that closes at 20.4 ms opened. -/
def heard (f : List Byte) : Reception := ⟨20000, f, none⟩

/-- Bytes whose reception began then and was cut off. -/
def cutOff (k : Cut) (f : List Byte) : Reception := { heard f with cut := some k }

/-! ### Form: each check refuses an ill-formed command -/

theorem test_wf_otherWrite : (Instr.registerWriteOther 0x10 4 0).wf = false ∧ (Instr.registerWriteOther 0 4 0x01).wf = false ∧
    (Instr.registerWriteOther 0x10 2 0).wf = true ∧ (Instr.registerWriteOther 0 4 0x03).wf = true ∧
    (Instr.registerWriteOther 0x18 4 0).wf = true := by decide +kernel
theorem test_wf_headerRead : (Instr.headerRead (zeros 127)).wf = false ∧ (Instr.headerRead (zeros 128)).wf = true := by decide +kernel
theorem test_wf_linkRead : (Instr.linkRead (zeros 4)).wf = false ∧ (Instr.linkRead (zeros 8)).wf = true := by decide +kernel
theorem test_wf_recordHeadRead : (Instr.recordHeadRead (zeros 16)).wf = false ∧ (Instr.recordHeadRead (zeros 32)).wf = true := by
  decide +kernel
theorem test_wf_recordBodyRead : (Instr.recordBodyRead []).wf = false ∧ (Instr.recordBodyRead (zeros 2049)).wf = false ∧
    (Instr.recordBodyRead (zeros 16)).wf = true := by decide +kernel
theorem test_wf_timecodeFrame : (Instr.timecodeFrame (some ⟨100, 0, 0, 0⟩)).wf = false ∧
    (Instr.timecodeFrame (some ⟨0, 100, 0, 0⟩)).wf = false ∧ (Instr.timecodeFrame (some ⟨0, 0, 100, 0⟩)).wf = false ∧
    (Instr.timecodeFrame (some ⟨0, 0, 0, 100⟩)).wf = false ∧ (Instr.timecodeFrame none).wf = true := by decide +kernel
theorem test_wf_replies : (Instr.accept 0 (heard (zeros 7))).wf = false ∧ (Instr.refuse 0 (heard (zeros 7))).wf = false ∧
    (Instr.status 0 (heard (zeros 9))).wf = false ∧ (Instr.descriptor 0 (heard (zeros 19))).wf = false ∧
    (Instr.badReply 0 (heard (zeros 23))).wf = false ∧ (Instr.strayFrame 0 (heard (zeros 23))).wf = false ∧
    (Instr.accept 2 (cutOff .stopBit (reply 0x81 (zeros 4)))).wf = false ∧
    (Instr.accept 2 (heard (reply 0x81 (zeros 4)))).wf = true := by decide +kernel

/-! ### Formats -/

/-- The check value of the CRC (R114). -/
theorem test_crc : crc16 (("123456789".toList).map fun c => byteOf c.toNat) = 0x29B1#16 := by decide +kernel
theorem test_decodeReply : decodeReply (reply 0x81 (be32 100)) = some ⟨5, 9, .accept 100⟩ ∧
    decodeReply (reply 0x82 [2]) = some ⟨5, 9, .refuse .motor⟩ ∧
    decodeReply (reply 0x83 [3, 9, 0]) = some ⟨5, 9, .status ⟨true, true, 9, .none⟩⟩ ∧
    decodeReply (reply 0x83 [3, 9]) = none ∧ decodeReply ((reply 0x82 [2]).dropLast) = none := by decide +kernel
theorem test_controlWord : State.reset.controlWord = 0 ∧ reading.controlWord = 0x201 := by decide +kernel

/-! ### Worked examples of the spec -/

/-- The fades of the example of chapter 2. -/
theorem test_fade : fadeAt 60000 40000 4000 3000 5000 = 53334 ∧ fadeAt 60000 30000 4000 3000 6000 = 40000 ∧
    fadeAt 60000 10000 4000 3000 6500 = 18334 ∧ fadeAt 0 7 4000 3000 7000 = 7 ∧ fadeAt 5 7 4000 0 4000 = 7 := by
  decide +kernel

/-- Sectors of the example of chapter 3. -/
def sectors : List Sector :=
  [⟨true, ⟨-1000, 1000, -13500, 13500⟩, .darken, [(300, 300)]⟩,
    ⟨true, ⟨6000, 9000, -2000, 1000⟩, .detour ⟨4000, 2500⟩, [(300, 300)]⟩,
    ⟨true, ⟨10000, 12000, -6000, -3000⟩, .refuse, [(300, 300)]⟩]

theorem test_verdicts :
    verdict sectors binding ⟨-4000, -4000, -500, -500⟩ ⟨3000, -800⟩ = .direct true ∧
    verdict sectors binding ⟨-4000, -4000, -500, -500⟩ ⟨11000, 3000⟩ = .detour ⟨4000, 2500⟩ true ∧
    verdict sectors binding ⟨-4000, -4000, -500, -500⟩ ⟨11000, -4000⟩ = .path ∧
    verdict sectors binding ⟨-4000, -4000, -500, -500⟩ ⟨7000, 0⟩ = .path := by decide +kernel

/-- The plan of the example of chapter 4: 445 ms and 444 ms. -/
theorem test_plan : plan profile binding sectors ⟨-4000, -4000, -500, -500⟩ ⟨11000, 3000⟩ 600 =
    .legs ⟨⟨4000, 2500⟩, 445, none⟩ (some ⟨⟨11000, 3000⟩, 444, none⟩) true := by decide +kernel

/-- The colour transform of the example of chapter 1: orders (2, 0, 3, 1), widths (16, 8, 8, 16), shifts (0, 0, 4, 16). -/
theorem test_colourBytes : colourBytes [⟨2, 16, 0⟩, ⟨0, 8, 0⟩, ⟨3, 8, 4⟩, ⟨1, 16, 16⟩]
    #v[40000, 51000, 65535, 12345, 0, 0] = [199, 0, 0, 0x9C, 0x40, 15] := by decide +kernel

/-- The frame values of the table of chapter 7. -/
theorem test_frameValues : frameValue ⟨12, 34, 56, 23⟩ .fps24 = 45296958 ∧ frameValue ⟨12, 34, 56, 24⟩ .fps25 = 45296960 ∧
    frameValue ⟨12, 34, 56, 29⟩ .fps30 = 45296966 ∧ frameIndex ⟨23, 59, 59, 23⟩ .fps24 = 2073599 := by decide +kernel

/-! ### The register window -/

theorem test_start : did .start { State.reset with regs := { Registers.reset with regionSize := 0x10000 } }
    (fun t => t.chain.starting && t.bus.outstanding == some ⟨.read .header, 10000, false⟩) = true := by decide +kernel
theorem test_start_refused : did .start State.reset (fun t => t.chain.outcome == .sizeInvalid) = true ∧
    did .start { State.reset with regs := { Registers.reset with regionBase := 1 } }
      (fun t => t.chain.outcome == .baseMisaligned) = true := by decide +kernel
theorem test_pause : did .pause reading (fun t => t.chain.engine == .paused && t.chain.scan.isNone &&
    t.wb.later.map HeldSample.sample == some ⟨0, 0, 0, .halted, .paused⟩) = true := by decide +kernel
theorem test_softReset : did .softReset (rigged .active line reading) (fun t =>
    t.chain.engine == .idle && t.regs.regionSize == 0x10000 && t.micros == 20000) = true := by
  decide +kernel
theorem test_cardReset : did .cardReset (rigged .active line reading) (fun t => t.chain.engine == .idle && t.regs == Registers.reset && t.micros == 0) = true := by decide +kernel
theorem test_blackout : did .blackout reading (fun t => t.regs.blackout) = true := by decide +kernel
theorem test_restore : did .restore { State.reset with regs := { Registers.reset with blackout := true } }
    (fun t => !t.regs.blackout) = true := by decide +kernel
theorem test_writes : did (.regionBaseWrite .high 5) State.reset (fun t => t.regs.regionBase == 0x500000000#64) = true ∧
    did (.regionBaseWrite .low 5) reading (fun t => t.regs.regionBase == 0) = true ∧
    did (.scanPeriodWrite 100) reading (fun t => t.regs.scanPeriod == 250) = true ∧
    did (.attentionMaskWrite 0xFFFFFF82) reading (fun t => t.regs.mask == { Causes.empty with head := true }) = true := by
  decide +kernel
theorem test_attentionTake : did .attentionTake (reading.latchCause .line)
    (fun t => t.regs.lastTake == 4 && t.regs.latch == Causes.empty) = true := by decide +kernel

/-- A write of four bytes to CONTROL is decoded by its bits 0 to 7 (R178), one to another register is that register's. -/
theorem test_hostWrite : did (.registerWriteOther 0x00 4 0xFFFFFF10) reading (fun t => t.regs.blackout) = true ∧
    did (.registerWriteOther 0x00 4 0x02) reading (fun t => t.chain.engine == .paused) = true ∧
    did (.registerWriteOther 0x20 4 0x02) reading (fun t => t.regs.mask == { Causes.empty with head := true }) = true ∧
    did (.registerWriteOther 0x00 2 0x02) reading (fun t => t.chain.engine == .reading) = true ∧
    did (.registerWriteOther 0x00 4 0x03) reading (fun t => t.chain.engine == .reading) = true := by decide +kernel

/-! ### The post chain and the bus -/

/-- A header with its first link at 0x5000. -/
def header : List Byte := le64 0x5000 ++ le64 0x400 ++ le64 0x4400 ++ zeros 104

theorem test_headerRead : did (.headerRead header) (onBus (.read .header)
    { State.reset with regs := { Registers.reset with regionSize := 0x10000 } })
    (fun t => t.chain.region == some region && t.chain.engine == .reading &&
      t.bus.outstanding.map Outstanding.access == some (.read (.link 0))) = true := by decide +kernel
theorem test_linkRead : did (.linkRead (le64 0x5000)) (onBus (.read (.link 0)) reading)
    (fun t => t.bus.outstanding.map Outstanding.access == some (.read (.head 0x5000))) = true ∧
    did (.linkRead (le64 0x5008)) (onBus (.read (.link 0)) reading)
    (fun t => t.chain.condition == .broken && t.regs.latch.chain) = true := by decide +kernel
theorem test_recordHeadRead : did (.recordHeadRead (zeros 8 ++ le32 7 ++ [1, 9] ++ zeros 18)) (onBus (.read (.head 0x5000)) reading)
    (fun t => t.bus.outstanding.map Outstanding.access == some (.read (.body (recHead 9)))) = true := by decide +kernel
theorem test_recordBodyRead : did (.recordBodyRead [2, 1, 1, 0, 0, 0, 0, 0]) (onBus (.read (.body (recHead 9))) reading)
    (fun t => t.chain.holding == some ⟨recHead 9, .line ⟨2, true, true, false, 0, 0⟩⟩) = true := by decide +kernel
theorem test_scanTimer : did .scanTimer { reading with chain := { reading.chain with scan := none, scanTimer := some 20000 } }
    (fun t => t.chain.scan == some 0 && t.bus.readerReq == some (.link 0)) = true := by
  decide +kernel
theorem test_writesComplete :
    did .resultWrite { onBus (.result ⟨0x5000, .done, .ok, [], none⟩) reading with
      wb := { reading.wb with list := [⟨0x5000, .done, .ok, [], none⟩] } }
      (fun t => t.bus.outstanding.map Outstanding.access == some (.state ⟨0x5000, .done, .ok, [], none⟩)) = true ∧
    did .stateWrite { onBus (.state ⟨0x5000, .done, .ok, [], none⟩) reading with
      wb := { reading.wb with list := [⟨0x5000, .done, .ok, [], none⟩] } }
      (fun t => t.wb.list.isEmpty && t.regs.latch.result) = true ∧
    did .mirrorWrite (onBus (.mirror 40 (.head 40 .active) []) reading)
      (fun t => t.wb.lastHead.get 40 == .active && t.regs.latch.head) = true ∧
    did .headerWrite { reading with wb := { reading.wb with later := some ⟨⟨1, 0, 0, .halted, .reading⟩, 0⟩ } }
      (fun t => t.bus.outstanding.map Outstanding.access == some (.header ⟨1, 0, 0, .halted, .reading⟩)) = true := by
  decide +kernel
theorem test_failures : did .busAccessError (onBus (.read (.link 0)) reading) (fun t =>
      t.chain.engine == .busPaused && t.bus.held == some (.read (.link 0)) && t.regs.latch.bus) = true ∧
    did .completionTimer (onBus (.read (.link 0)) reading) (fun t => t.chain.engine == .busPaused) = true := by
  decide +kernel

/-- A completion after the completion timer has run out is discarded (R165). -/
theorem test_lateCompletion :
    did (.linkRead (le64 0x5000)) { onBus (.read (.link 0)) reading with micros := 20001 }
      (fun t => t.bus.outstanding == some ⟨.read (.link 0), 20000, false⟩) = true ∧
    did .mirrorWrite { onBus (.mirror 40 (.head 40 .active) []) reading with micros := 20001 }
      (fun t => t.wb.lastHead.get 40 == .unpatched) = true := by decide +kernel

/-! ### Records -/

/-- The answer's state and code at the back of the list. -/
def answered (st : RecState) (code : ResultCode) (t : State) : Bool :=
  match t.wb.list.head? with
  | some u => u.state == st && u.code == code && t.chain.takenCount == 1
  | none => false

/-- A PROFILE, SECTOR and CUE record. -/
def profileRec (remove : Bool) : ProfileRec :=
  ⟨3, remove, 1, 1, 0xABCD, -100, 100, -100, 100, 180, 90, 5, 120,
    [(0, 8, 0), (0, 0, 0), (0, 0, 0), (0, 0, 0), (0, 0, 0), (0, 0, 0)]⟩
def sectorRec (remove : Bool) : SectorRec :=
  ⟨3, remove, true, 0, -100, 100, -100, 100, 0, 0, 1, [(40, 41), (0, 0), (0, 0), (0, 0), (0, 0), (0, 0), (0, 0), (0, 0)]⟩
def entryRec : EntryRec := ⟨40, false, true, false, 0, 0, 0, 0, 3, 0, 0, 0, #v[1, 2, 3, 4, 5, 6]⟩
def cueRec : CueRec := ⟨0, false, 0, false, 0, 1, 0, [entryRec]⟩
def patchRec : PatchRec := ⟨40, 2, 5, 0, 1, 1⟩
def releaseRec : ReleaseRec :=
  ⟨1, false, true, false, 1, 0, [(40, 40), (0, 0), (0, 0), (0, 0), (0, 0), (0, 0), (0, 0), (0, 0)]⟩
def lineRec (on : Bool) : LineRec := ⟨2, on, true, false, 0, 0⟩
def clockRec (command : Nat) : ClockRec := ⟨command, true, 24, 5000, 65535, 0⟩

/-- The clock running by itself. -/
def running : Clock := { Clock.reset with state := .internal, showTime := 1000 }

theorem test_profile : did .profile (holding (.profile { profileRec false with slot := 32 }) reading)
      (answered .refused .malformed) = true ∧
    did .profile (holding (.profile { profileRec false with slot := 0 }) (withHead 0 (head .lost) reading))
      (answered .refused .inUse) = true ∧ (profileRec false).formOk = true ∧
    (profileRec false).kept.components = [⟨0, 8, 0⟩] := by decide +kernel
theorem test_profileRemove : did .profileRemove (holding (.profile { profileRec true with slot := 0 })
      (withHead 0 (head .lost) reading)) (answered .refused .inUse) = true := by decide +kernel
theorem test_sector : did .sector (holding (.sector (sectorRec false)) (rigged .active Line.reset reading))
    (fun t => answered .done .ok t && t.rig.members.get 41 == [3] && (t.rig.heads.get 40).guard.parked &&
      (t.wb.list.head?.map Update.area) == some (resultArea [2, 0, 1, 0])) = true := by decide +kernel
theorem test_sectorRemove : did .sectorRemove (holding (.sector (sectorRec true)) reading) (answered .done .ok) = true := by
  decide +kernel
theorem test_patch : did .patch (holding (.patch patchRec) (withProfile 0 profile (withLine 2 { line with
      addrMap := Line.reset.addrMap } reading)))
    (fun t => answered .done .ok t && (t.rig.heads.get 40).avail == .identifying &&
      (match (t.rig.lines.get 2).work with | .exchange e => e.kind == .ident | _ => false)) = true := by decide +kernel
theorem test_unpatch : did .unpatch (holding (.unpatch 40) (rigged .active line reading))
    (fun t => answered .done .ok t && t.rig.heads.get 40 == Head.unpatched) = true := by decide +kernel
theorem test_clearHead : did .clearHead (holding (.clearHead 40) (rigged .fault line reading))
    (fun t => answered .done .ok t && (match (t.rig.lines.get 2).work with
      | .exchange e => e.kind == .clear | _ => false)) = true ∧
    did .clearHead (holding (.clearHead 40) (rigged .active line reading)) (answered .refused .wrongState) = true := by
  decide +kernel
theorem test_release : did .release (holding (.release releaseRec)
      (withHead 40 { head .active with liveCol := some ⟨#v[9, 0, 0, 0, 0, 0], ⟨Colour.zero, 0, 0⟩, 1⟩ } reading))
    (fun t => answered .done .ok t && (t.rig.heads.get 40).liveCol.isNone &&
      (t.wb.list.head?.map Update.area) == some (resultArea [1, 0])) = true := by decide +kernel
theorem test_line : did .line (holding (.line (lineRec true)) (rigged .offline { line with state := .disabled } reading))
    (fun t => answered .done .ok t && (t.rig.lines.get 2).state == .running &&
      (t.rig.heads.get 40).avail == .identifying) = true ∧
    did .line (holding (.line (lineRec false)) (rigged .active line reading))
    (fun t => (t.rig.lines.get 2).state == .disabled && (t.rig.heads.get 40).avail == .offline) = true := by decide +kernel
/-- A counter reset marks the line's mirror entry with every counter 0 already (R91). -/
theorem test_counterReset : did .line (holding (.line { lineRec true with resetCounters := true })
      (rigged .active { line with quietAt := some 20400 } reading)) (fun t => t.rig.marks.get (lineEntry 2)) = true := by
  decide +kernel
theorem test_clockInternal : did .clockInternal (holding (.clock (clockRec 1)) reading)
    (fun t => answered .done .ok t && t.clock == { running with showTime := 5000 } && t.regs.latch.clock) = true := by
  decide +kernel
theorem test_clockHalt : did .clockHalt (holding (.clock (clockRec 2)) (withClock running reading))
    (fun t => answered .done .ok t && t.clock.state == .halted && t.clock.showTime == 1000) = true := by decide +kernel
theorem test_clockChase : did .clockChase (holding (.clock (clockRec 3)) reading)
    (fun t => answered .done .ok t && t.clock.state == .seeking && t.clock.rate == .fps24) = true := by decide +kernel
theorem test_cue : did .cue (holding (.cue cueRec) (rigged .active Line.reset reading))
    (fun t => answered .taken .ok t && t.cues.map Cue.tag == [7]) = true ∧
    did .cue (holding (.cue cueRec) (withClock running (rigged .active Line.reset reading)))
    (fun t => t.cues.isEmpty && (t.rig.heads.get 40).showCol.isSome) = true := by decide +kernel
/-- The final update of a cue that fires and retires as its own record is taken is listed before the scan looks for room and
hands over its sample (R149, R160, R174): 125 updates listed, the record's own, the cue's, and none of a next record. -/
def retiringCue : State :=
  listed 125 (withClock running (rigged .lost Line.reset
    { reading with
      chain := { reading.chain with holding := some ⟨{ recHead 1 with next := 0x6000 }, .cue cueRec⟩ }
      wb := WriteBack.reset }))

theorem test_cueRetiredBeforeScanGoesOn : did .cue retiringCue (fun t =>
    t.wb.list.length == 127 && t.wb.list.getLast?.bind Update.slot == some 0 && t.chain.scan.isNone &&
    t.wb.waiting.map HeldSample.barrier == some 127) = true := by decide +kernel

theorem test_cancel : did .cancel (holding (.cancel 5) (withCues [cue 5 9000] reading))
    (fun t => answered .done .ok t && t.cues.isEmpty && (t.wb.list.map Update.state) == [.done, .cancelled]) = true := by
  decide +kernel
theorem test_unknownKind : did .unknownKindRecord (holding .unknown reading) (answered .refused .unknownKind) = true := by
  decide +kernel

/-- A pool entry keeps its COLOUR component count (R139). -/
theorem test_entryCount : (entryRec.kept.bind Entry.colour).map EntryCol.count = some 3 := by decide +kernel

/-! ### Cues, the clock, timers -/

theorem test_firing : did .firing (withClock running (withCues [cue 5 900] (rigged .active Line.reset reading)))
    (fun t => t.cues.isEmpty && (t.wb.list.map Update.area) ==
      [cueArea 1000 100 ⟨0, 1, 0, 0, 0, 0⟩ true false]) = true := by decide +kernel
theorem test_passedOver : did .passedOver (withCues [{ cue 5 900 with skip := true, policy := .drop }] reading)
    (fun t => t.cues.isEmpty && (t.wb.list.map Update.state) == [.passed]) = true := by decide +kernel
theorem test_showDayEnd : did .showDayEnd (withClock { running with showTime := 86399999 } reading)
    (fun t => t.clock.showTime == 86399999) = true := by decide +kernel

/-- The dropout of the example of chapter 7. -/
def locked : State := withClock { Clock.reset with state := .locked, showTime := 72000400 } { reading with micros := 500400000 }

theorem test_timecodeFrame : did (.timecodeFrame (some ⟨20, 0, 0, 10⟩)) locked
    (fun t => t.clock == { locked.clock with showTime := 72000400, lossTimer := some 500520 }) = true := by decide +kernel
theorem test_lossTimer : did .lossTimer (withClock { locked.clock with lossTimer := some 500400 } locked)
    (fun t => t.clock.state == .freewheel && t.clock.freewheelDeadline == some 502400 && t.regs.latch.clock) = true := by
  decide +kernel
theorem test_freewheelDeadline : did .freewheelDeadline
    (withClock { locked.clock with state := .freewheel, freewheelDeadline := some 500400 } locked)
    (fun t => t.clock.state == .held) = true := by decide +kernel
theorem test_identificationTimer : did (.identificationTimer 40)
    (withHead 40 { head .identifying with identTimer := some 20 } (withLine 2 line reading))
    (fun t => match (t.rig.lines.get 2).work with | .exchange e => e.kind == .ident | _ => false) = true := by decide +kernel
theorem test_lampTimers : did (.strikeTimer 40) (withHead 40 { head .active with lampTimer := some ⟨.strike, 20⟩ } reading)
    (fun t => (t.rig.heads.get 40).lamp == .lit) = true ∧
    did (.coolingTimer 40) (withHead 40 { head .active with
      lamp := .cooling, lampTimer := some ⟨.cooling, 20⟩, strikePending := true } (withLine 2 line reading))
    (fun t => (t.rig.heads.get 40).lamp == .off && !(t.rig.heads.get 40).strikePending) = true := by decide +kernel
theorem test_deadline : did (.deadline 40) (withSlot 3 slot (withHead 40 { head .active with
      move := some { move .travelling with deadline := some 20 } } reading))
    (fun t => (t.rig.heads.get 40).avail == .fault && (t.rig.heads.get 40).faultCause == .stall &&
      (t.wb.list.map Update.area) == [cueArea 0 0 ⟨0, 0, 0, 0, 0, 1⟩ false false]) = true := by decide +kernel

/-- A gathering that has one staged move on L2. -/
def gathering : Running :=
  { slot with together := true, gathering := ⟨.gathering, 2, some 20, upd (Vector.replicate 16 false) 2 true⟩ }

theorem test_latchDeadline : did (.latchDeadline 3) (withSlot 3 gathering (withLine 2 line reading))
    (fun t => (t.rig.lines.get 2).work == .latch 3 (some true) (latchFrame 3) &&
      (t.rig.slots.get 3).map (fun x => x.gathering.state) == some .latched) = true := by decide +kernel

/-! ### Lines -/

/-- L2 transmitting a LOOK, a LATCH, an attempt. -/
def look : Work := .look ⟨40, 4, [], 0, 15, false, true⟩
def sent : Work := .exchange { exchange .poll none with phase := .transmitting true }

theorem test_refreshDue : did (.refreshDue 2) (rigged .active { line with refreshDue := upd line.refreshDue 4 (some 20) } reading)
    (fun t => (t.rig.lines.get 2).work == .look ⟨40, 4, lookFrame 4 profile.components Colour.zero 0, 0, 20, false, true⟩) =
    true := by decide +kernel
theorem test_pollPeriod : did (.pollPeriodElapsed 2) (rigged .active { line with lastPoll := 0 } reading)
    (fun t => match (t.rig.lines.get 2).work with | .exchange e => e.kind == .poll && e.head == 40 | _ => false) = true := by
  decide +kernel
theorem test_lineQuiet : did (.lineQuiet 2) (rigged .active { line with quietAt := some 20000, lastPoll := 0 } reading)
    (fun t => match (t.rig.lines.get 2).work with | .exchange e => e.kind == .poll | _ => false) = true := by decide +kernel
theorem test_backoffExpiry : did (.backoffExpiry 2) (rigged .active { line with state := .backoff, timer := some 20 } reading)
    (fun t => (t.rig.lines.get 2).state == .running) = true := by decide +kernel
theorem test_jamHoldExpiry : did (.jamHoldExpiry 2) (rigged .offline { line with state := .jammed, timer := some 20 } reading)
    (fun t => (t.rig.lines.get 2).state == .running && (t.rig.heads.get 40).avail == .identifying) = true := by
  decide +kernel
theorem test_collision : did (.collision 2) (rigged .active (working look) reading) (fun t =>
      (t.rig.lines.get 2).state == .backoff && (t.rig.lines.get 2).timer == some 21) = true ∧
    did (.collision 2) (rigged .active { working look with run := 7 } reading) (fun t =>
      (t.rig.lines.get 2).state == .jammed && (t.rig.heads.get 40).avail == .offline) = true := by decide +kernel
theorem test_frames : did (.lookComplete 2) (rigged .active { working look with
      refreshDue := upd line.refreshDue 4 (some 0) } reading)
      (fun t => (t.rig.lines.get 2).refreshDue.get 4 == some 40) = true ∧
    did (.attemptSent 2) (rigged .active (working sent) reading)
      (fun t => (t.rig.lines.get 2).work == .exchange (exchange .poll none)) = true := by decide +kernel

/-- A LOOK sent before a darkened AIM lets that AIM go next, any other clears that (R99). -/
theorem test_afterDark : did (.lookComplete 2) (rigged .active { working (.look ⟨40, 4, [], 0, 15, true, true⟩) with
      afterDark := none } reading) (fun t => (t.rig.lines.get 2).afterDark == some 40) = true ∧
    did (.lookComplete 2) (rigged .active { working look with afterDark := some 40 } reading)
      (fun t => (t.rig.lines.get 2).afterDark.isNone) = true := by decide +kernel

/-- After a frame the line is quiet 40 µs later and no sooner (R112). -/
theorem test_quiet : did (.lookComplete 2) (rigged .active (working look) reading)
      (fun t => (t.rig.lines.get 2).quietAt == some 20040) = true ∧
    did (.lineQuiet 2) (rigged .active { line with quietAt := some 20001, lastPoll := 0 } reading)
      (fun t => (t.rig.lines.get 2).work == .idle && (t.rig.lines.get 2).quietAt == some 20001) = true := by decide +kernel

/-- A POLL transmitted again is a POLL's transmission that begins (R98). -/
theorem test_sendAgain : did (.lineQuiet 2) (rigged .active
      { working (.exchange { exchange .poll none with phase := .retransmit }) with
        quietAt := some 20000, lastPoll := 3, framesSincePoll := 5 } reading)
    (fun t => (t.rig.lines.get 2).lastPoll == 20 && (t.rig.lines.get 2).framesSincePoll == 0 &&
      (t.rig.lines.get 2).pollPos == 4) = true := by decide +kernel

/-- A second SOFT_RESET keeps the later end of the windows cut (R88). -/
theorem test_cutWindow : did .softReset
      (rigged .active { working (.exchange (exchange .poll none)) with cutWindow := some 20300 } reading)
      (fun t => (t.rig.lines.get 2).cutWindow == some 20400) = true ∧
    did .softReset (rigged .active { line with cutWindow := some 20300 } reading)
      (fun t => (t.rig.lines.get 2).cutWindow == some 20300) = true := by decide +kernel

/-- A STAGED move of latch number 3. -/
def stagedHead : Head :=
  { head .active with move := some { move .staged with latch := some 3, staged := true, travel := some 60 } }

theorem test_latchComplete : did (.latchComplete 2) (withHead 40 stagedHead
      (rigged .active (working (.latch 3 (some true) [])) reading |> withHead 40 stagedHead))
    (fun t => (t.rig.heads.get 40).accepted == some ⟨⟨100, 200⟩, some 9⟩ &&
      ((t.rig.heads.get 40).move.bind Move.deadline) == some 1140) = true := by decide +kernel

/-- A reply window open for an AIM of the move ON_WIRE. -/
def aimed : State :=
  withHead 40 { head .active with move := some (move .onWire), settled := false }
    (rigged .active (working (.exchange (exchange .aim (some ⟨⟨100, 200⟩, 9, false⟩)))) reading) |>
  withHead 40 { head .active with move := some (move .onWire) }

theorem test_accept : did (.accept 2 (heard (reply 0x81 (be32 60)))) aimed
    (fun t => ((t.rig.heads.get 40).move.bind Move.deadline) == some 1140 && !(t.rig.heads.get 40).settled) = true := by
  decide +kernel
/-- A reply whose break starts after the window is none (R117); with one at its very end the window is met. -/
theorem test_window : did (.accept 2 ⟨20401, reply 0x81 (be32 60), none⟩) aimed
      (fun t => (t.rig.lines.get 2).work.listening.isSome) = true ∧
    did (.accept 2 ⟨20400, reply 0x81 (be32 60), none⟩) { aimed with micros := 20900 }
      (fun t => (t.rig.lines.get 2).quietAt == some 20940) = true ∧
    did (.strayFrame 2 ⟨20401, [], none⟩) aimed (fun t => (t.rig.lines.get 2).checkErrors == ⟨1, false⟩) = true ∧
    did (.strayFrame 2 ⟨20400, [], none⟩) aimed (fun t => (t.rig.lines.get 2).checkErrors == ⟨0, false⟩) = true := by
  decide +kernel
theorem test_refuse : did (.refuse 2 (heard (reply 0x82 [2]))) aimed
    (fun t => (t.rig.heads.get 40).avail == .fault && (t.rig.heads.get 40).lastOutcome == some .headRefused) = true := by
  decide +kernel
theorem test_status : did (.status 2 (heard (reply 0x83 [3, 9, 0])))
    (withHead 40 { head .active with move := some (move .travelling), settled := false }
      (withLine 2 (working (.exchange (exchange .poll none))) (rigged .active line reading)) |>
      withHead 40 { head .active with move := some (move .travelling), settled := false })
    (fun t => (t.rig.heads.get 40).settled && (t.rig.heads.get 40).lastOutcome == some .reached) = true := by decide +kernel
theorem test_descriptor : did (.descriptor 2 (heard (reply 0x84 (be32 0xABCD ++ be16 0 ++ be16 300 ++ be16 400 ++ [3] ++ be16 0))))
    (rigged .identifying (working (.exchange (exchange .ident none))) reading)
    (fun t => (t.rig.heads.get 40).avail == .active && (t.rig.heads.get 40).accepted == some ⟨⟨300, 400⟩, none⟩ &&
      (t.rig.heads.get 40).lamp == .lit) = true := by decide +kernel
theorem test_misses : did (.badReply 2 (heard [1, 2])) (rigged .active (working (.exchange (exchange .poll none))) reading)
      (fun t => (t.rig.lines.get 2).checkErrors == ⟨1, false⟩ && (t.rig.heads.get 40).missTotal == ⟨1, false⟩) = true ∧
    did (.replyWindowClose 2) (rigged .active (working (.exchange (exchange .poll none))) { reading with micros := 20400 })
      (fun t => (t.rig.lines.get 2).misses == ⟨1, false⟩ && (t.rig.heads.get 40).missRun == 1) = true ∧
    did (.strayFrame 2 (heard [1])) (rigged .active line reading)
      (fun t => (t.rig.lines.get 2).checkErrors == ⟨1, false⟩ && (t.rig.lines.get 2).quietAt == some 20040) = true := by decide +kernel

/-- What L2 is after a reception outside any window. -/
def afterStray (x : Line) (f : Reception) (p : Line → Bool) : Bool :=
  did (.strayFrame 2 f) (rigged .active x reading) (fun t => p (t.rig.lines.get 2))

/-- A reception the quiet cut off adds no wait, and none takes one away (R112). -/
theorem test_strayQuiet : afterStray line (cutOff .quiet [1]) (fun y => y.quietAt == some 20000 && !y.awaitsQuiet) = true ∧
    afterStray { line with quietAt := some 20030 } (cutOff .quiet [1]) (fun y => y.quietAt == some 20030) = true ∧
    afterStray { line with quietAt := some 20030 } (cutOff .newBreak [1]) (fun y => y.quietAt == some 20040) = true ∧
    afterStray line (heard (reply 0x81 (be32 60))) (fun y => y.quietAt == some 20040 && !y.awaitsQuiet) = true := by
  decide +kernel

/-- After a bad stop bit and a length above 16 the receiver waits for quiet, and receives nothing before it (R113). -/
theorem test_awaitsQuiet : afterStray line (cutOff .stopBit [1]) (fun y => y.quietAt == some 20040 && y.awaitsQuiet) = true ∧
    afterStray line (heard [5, 0x81, 9, 17]) (fun y => y.quietAt == some 20040 && y.awaitsQuiet) = true ∧
    afterStray { line with quietAt := some 20000, awaitsQuiet := true } (heard [1])
      (fun y => y.checkErrors == ⟨0, false⟩ && y.quietAt == some 20040 && y.awaitsQuiet) = true ∧
    did (.lineQuiet 2) (rigged .active { line with quietAt := some 20000, awaitsQuiet := true } reading)
      (fun t => !(t.rig.lines.get 2).awaitsQuiet) = true ∧
    did (.badReply 2 (heard [1])) (rigged .active
        { working (.exchange (exchange .poll none)) with quietAt := some 20000, awaitsQuiet := true } reading)
      (fun t => (t.rig.lines.get 2).misses == ⟨0, false⟩) = true := by decide +kernel

/-- A frame that passes its checks but was cut off is bad (R113). -/
theorem test_cutReply : did (.badReply 2 (cutOff .newBreak (reply 0x81 (be32 60)))) aimed
      (fun t => (t.rig.lines.get 2).misses == ⟨1, false⟩) = true ∧
    did (.accept 2 (cutOff .newBreak (reply 0x81 (be32 60)))) aimed
      (fun t => (t.rig.lines.get 2).work.listening.isSome) = true := by decide +kernel

/-- A LATCH whose slot left RUNNING while it was on the wire is not held after a collision (R87, R105). -/
theorem test_latchSpent : did (.collision 2) (rigged .active
        { working (.latch 3 (some true) []) with latchSpent := true } reading)
      (fun t => (t.rig.lines.get 2).work == .idle) = true ∧
    did (.collision 2) (rigged .active (working (.latch 3 (some true) [])) reading)
      (fun t => (t.rig.lines.get 2).work == .latch 3 none []) = true ∧
    did (.lineQuiet 2) (rigged .active { working (.latch 3 none []) with quietAt := some 20000, latchSpent := true } reading)
      (fun t => (t.rig.lines.get 2).work == .latch 3 (some true) [] && !(t.rig.lines.get 2).latchSpent) = true := by
  decide +kernel

/-- A deadline that retires slot 3 while L2 sends its LATCH and L3 has one queued and one held (R87, R96). -/
theorem test_retiredLatches : did (.deadline 40)
      (withSlot 3 { slot with applied := true, outstanding := 1 }
        (withLine 3 { Line.reset with state := .running, work := .latch 3 none [], queue := [.latch 3] }
          (withLine 2 (working (.latch 3 (some true) []))
            (withHead 40 { head .active with move := some { move .travelling with deadline := some 20 } } reading))))
    (fun t => (t.rig.lines.get 2).latchSpent && (t.rig.lines.get 2).work == .latch 3 (some true) [] &&
      (t.rig.lines.get 3).work == .idle && (t.rig.lines.get 3).queue == []) = true := by decide +kernel

/-! ### Steps -/

theorem test_step : (match step { reading with pending := [.blackout, .restore] } with
    | .next t => t.pending == [.restore] && t.regs.blackout | _ => false) = true ∧
    (match step (withClock running { reading with micros := 20999 }) with
    | .next t => t.micros == 21000 && t.clock.showTime == 1001 | _ => false) = true := by decide +kernel
theorem test_withFetchWord : reading.withFetchWord 16 0 = reading := rfl

/-! ### States that meet the hypotheses of the statements

One theorem for each statement with hypotheses: for each clause a state, and operands, that meet its hypotheses together,
at the boundaries of their ranges. -/

/-- A start's registers. -/
def startState (base : BitVec 64) (size : Word) : State :=
  { State.reset with regs := { Registers.reset with regionBase := base, regionSize := size } }

/-- The size test of a START. -/
def badSize (s : State) : Prop :=
  s.regs.regionSize.toNat < 65536 ∨ 268435456 < s.regs.regionSize.toNat ∨ s.regs.regionSize.toNat % 4096 ≠ 0 ∨
    2 ^ 64 < s.regs.regionBase.toNat + s.regs.regionSize.toNat

theorem test_meets_Resets : (∀ e c, line.work = .exchange e → e.phase ≠ .window c) ∧
    ((working (.exchange (exchange .poll none))).work = .exchange (exchange .poll none) ∧
      (exchange .poll none).phase = .window 20400) ∧ sent.transmitting = true ∧ line.work.transmitting = false := by
  refine ⟨fun e c h => ?_, by decide +kernel, rfl, rfl⟩
  cases h

theorem test_meets_StartInIdle :
    (startState 0 0).chain.engine = .idle ∧ (startState 0 0).chain.starting = false ∧
    ({ Chain.reset with starting := true } : Chain).engine = .idle ∧
    (startState 4095 0x10000).regs.regionBase.toNat % 4096 ≠ 0 ∧
    badSize (startState 0 61440) ∧ badSize (startState 0 268439552) ∧ badSize (startState 0 65537) ∧
    badSize (startState 0xFFFFFFFFFFFF1000 0x10000) ∧
    ¬badSize (startState 0xFFFFFFFFFFFF0000 0x10000) ∧ ¬badSize (startState 0 268435456) := by
  unfold badSize; decide +kernel

/-- An engine state, and an access held. -/
def engineIn (e : EngineState) (a : Option Access) : State :=
  { reading with chain := { reading.chain with engine := e }, bus := { Bus.reset with held := a } }

theorem test_meets_StartResumes :
    reading.chain.engine = .reading ∧ (engineIn .paused none).chain.engine = .paused ∧
    (engineIn .busPaused none).chain.engine = .busPaused ∧ (engineIn .busPaused none).bus.held = none ∧
    (engineIn .busPaused (some (.read (.link 0)))).bus.held = some (.read (.link 0)) ∧
    (Access.result ⟨0, .done, .ok, [], none⟩).isRead = false := by decide +kernel

theorem test_meets_PauseTaken :
    State.reset.chain.engine ≠ .reading ∧ reading.chain.engine = .reading ∧ reading.wb.waiting ≠ none ∧
    ({ reading with wb := WriteBack.reset } : State).wb.waiting = none ∧
    (onBus (.read (.link 0)) reading).bus.outstanding = some ⟨.read (.link 0), 20000, false⟩ := by decide +kernel

theorem test_meets_BlackoutAndRestore :
    reading.regs.blackout = false ∧ ({ Registers.reset with blackout := true } : Registers).blackout = true ∧
    ((rigged .active line reading).rig.heads.get 40).avail ≠ .unpatched ∧
    ((rigged .active line reading).rig.heads.get 41).avail = .unpatched := by decide +kernel

/-- L2 at work, with head 40's refresh due at a time. -/
def busyDue (t : Nat) : Line := { working look with refreshDue := upd line.refreshDue 4 (some t) }

/-- The due time of head 40's refresh. -/
def dueIs (t : Option Nat) (s : State) : Bool := (s.rig.lines.get 2).refreshDue.get 4 == t

/-- A look change of head 40 leaves a due time. -/
def lookChanged (s : State) (t : Option Nat) : Bool := dueIs t { s with rig := s.rig.lookChange s.now 40 }

/-- A look change (R29) makes due at once the refresh of a head that takes LOOK frames, and of no other; entry into ACTIVE
or FAULT sets the due time and leaving them takes it away (R97). -/
theorem test_meets_refreshDue :
    ((head .active).lit ∧ (head .fault).lit ∧ ¬(head .lost).lit ∧ (head .active).guard = Guard.none) ∧
    ({ head .active with guard := { Guard.none with blackout := true } } : Head).guard = { Guard.none with blackout := true } ∧
    (head .active).guardTurned { head .active with guard := { Guard.none with parked := true } } ∧
    ¬(head .active).guardTurned (head .fault) ∧
    ((rigged .active (busyDue 30) reading).rig.heads.get 40).binding = some binding ∧
    (∀ h b, ((rigged .active (busyDue 30) reading).rig.heads.get h).binding = some b → b.address ≠ 5) ∧
    lookChanged (rigged .active (busyDue 30) reading) (some 20) = true ∧
    lookChanged (rigged .active (busyDue 10) reading) (some 10) = true ∧
    lookChanged (rigged .lost (busyDue 30) reading) (some 30) = true ∧
    did (.deadline 40) (withHead 40 { head .active with move := some { move .travelling with deadline := some 20, cue := none } }
      (rigged .active (busyDue 30) reading)) (dueIs (some 20)) = true ∧
    did (.descriptor 2 (heard (reply 0x84 (be32 0xABCD ++ be16 0 ++ be16 0 ++ be16 0 ++ [1] ++ be16 0))))
      (rigged .identifying (working (.exchange (exchange .ident none))) reading) (dueIs (some 20)) = true ∧
    did (.accept 2 (heard (reply 0x81 (be32 60))))
      (rigged .fault { busyDue 30 with work := .exchange (exchange .clear none) } reading) (dueIs none) = true := by
  refine ⟨by unfold Head.lit; decide +kernel, rfl, by unfold Head.guardTurned; decide +kernel,
    by unfold Head.guardTurned; decide +kernel, by decide +kernel, fun h b e => ?_, by decide +kernel, by decide +kernel,
    by decide +kernel, by decide +kernel, by decide +kernel, by decide +kernel⟩
  rw [(test_rigged_binding _ _ e).2]
  decide +kernel

theorem test_meets_SettingsWritten :
    (State.reset.chain.engine = .idle ∧ State.reset.chain.starting = false) ∧
    ¬(reading.chain.engine = .idle ∧ reading.chain.starting = false) ∧
    (0x101 : Word).toNat % 256 = 0x01 ∧ (0xFFFFFF02 : Word).toNat % 256 = 0x02 ∧ (0x0F : Word).toNat % 256 = 0x0F ∧
    (0x110 : Word).toNat % 256 = 0x10 ∧ (0x11 : Word).toNat % 256 = 0x11 ∧ (0x0100 : Word).toNat % 256 = 0 := by
  decide +kernel

/-- The mirror offsets of a header are well placed in a region of 64 KiB. -/
def placed (b : List Byte) : Prop :=
  rd64 b 8 % 64 = 0 ∧ rd64 b 16 % 64 = 0 ∧ 128 ≤ rd64 b 8 ∧ 128 ≤ rd64 b 16 ∧ rd64 b 8 + 16384 ≤ 0x10000 ∧
    rd64 b 16 + 512 ≤ 0x10000 ∧ (rd64 b 8 + 16384 ≤ rd64 b 16 ∨ rd64 b 16 + 512 ≤ rd64 b 8)

theorem test_meets_HeaderReadCompletes :
    (onBus (.read .header) (startState 0 0x10000)).bus.outstanding = some ⟨.read .header, 20000, false⟩ ∧
    (onBus (.read .header) (startState 0 0x10000)).micros ≤ 20000 ∧
    (onBus (.read .header) { startState 0 0x10000 with micros := 20000 }).micros ≤ 20000 ∧ header.length = 128 ∧ placed header ∧ placed (zeros 8 ++ le64 128 ++ le64 16512 ++ zeros 104) ∧
    placed (zeros 8 ++ le64 0xC000 ++ le64 0xBE00 ++ zeros 104) ∧
    ¬placed (zeros 8 ++ le64 64 ++ le64 0x4400 ++ zeros 104) ∧ ¬placed (zeros 8 ++ le64 128 ++ le64 16448 ++ zeros 104) ∧
    ¬placed (zeros 8 ++ le64 0xC040 ++ le64 128 ++ zeros 104) := by unfold placed; decide +kernel

/-- A scan timer. -/
def scanDue (t : Option Nat) : State := { reading with chain := { reading.chain with scanTimer := t } }

theorem test_meets_ScanTimerExpires :
    ((scanDue (some 20000)).chain.engine = .reading ∧ (scanDue (some 20000)).chain.scanTimer = some 20000 ∧
      20000 ≤ (scanDue (some 20000)).micros) ∧
    State.reset.chain.engine ≠ .reading ∧ (scanDue none).chain.scanTimer = none ∧
    ((scanDue (some 20001)).chain.scanTimer = some 20001 ∧ (scanDue (some 20001)).micros < 20001) := by decide +kernel

theorem test_meets_LinkReadCompletes :
    (onBus (.read (.link 0)) reading).bus.outstanding = some ⟨.read (.link 0), 20000, false⟩ ∧ reading.micros ≤ 20000 ∧
    ({ Chain.reset with scan := some 1 } : Chain).scan = some 1 ∧ (le64 0x5000).length = 8 ∧ rd64 (zeros 8) 0 = 0 ∧ rd64 (le64 0x5000) 0 = 0x5000 ∧
    (0x5008 % 16 ≠ 0 ∨ reading.fits 0x5008 32 = false) ∧ (0xFFF0 % 16 ≠ 0 ∨ reading.fits 0xFFF0 32 = false) ∧
    ¬(0xFFE0 % 16 ≠ 0 ∨ reading.fits 0xFFE0 32 = false) ∧
    (listed 126 reading).wb.list.length ≤ 126 ∧ 126 < (listed 127 reading).wb.list.length ∧
    reading.chain.scan = some 0 := by decide +kernel

/-- A record head's bytes with a state and a kind. -/
def headBytes (st kind : Byte) : List Byte := zeros 8 ++ le32 7 ++ [st, kind] ++ zeros 18

theorem test_meets_RecordHeadReadCompletes :
    (onBus (.read (.head 0x5000)) reading).bus.outstanding = some ⟨.read (.head 0x5000), 20000, false⟩ ∧
    reading.micros ≤ 20000 ∧ (headBytes 1 9).length = 32 ∧
    ((parseHead 0x5000 (headBytes 1 9)).state = 1 ∧ ∀ u ∈ reading.wb.list, u.offset ≠ 0x5000) ∧
    ¬((parseHead 0x5000 (headBytes 2 9)).state = 1) ∧ ¬(∀ u ∈ (listed 1 reading).wb.list, u.offset ≠ 0x5000) ∧
    bodyLength (parseHead 0x5000 (headBytes 1 0)).kind = none ∧ bodyLength (parseHead 0x5000 (headBytes 1 11)).kind = none ∧
    (∀ u ∈ (listed 127 reading).wb.list, u.offset ≠ 0x6000) ∧
    bodyLength (parseHead 0x5000 (headBytes 1 9)).kind = some 8 ∧ reading.fits 0xFFD0 (32 + 8) = true ∧
    reading.fits 0xFFE0 (32 + 8) = false := by decide +kernel

theorem test_meets_RecordBodyReadCompletes :
    (onBus (.read (.body (recHead 9))) reading).bus.outstanding = some ⟨.read (.body (recHead 9)), 20000, false⟩ ∧
    reading.micros ≤ 20000 ∧ (zeros 8).length = (ReadOp.body (recHead 9)).length ∧
    (zeros 16).length = (ReadOp.cueFixed (recHead 1)).length ∧ cueEntryBytes (rd16 (zeros 16) 6) = 0 ∧
    reading.fits 0x5000 48 = true ∧
    (zeros 64).length = (ReadOp.cueEntries (recHead 1) ([0, 0, 0, 0, 0, 0, 2] ++ zeros 9)).length ∧
    rd16 ([0, 0, 0, 0, 0, 0, 2] ++ zeros 9) 6 = 2 ∧ rd16 ([0, 0, 0, 0, 0, 0, 64] ++ zeros 9) 6 = 64 ∧
    reading.fits 0x5000 (48 + 32 * 64) = true ∧ reading.fits 0xFFD0 (48 + 32) = false := by decide +kernel

/-- A held record is ready to be taken. -/
theorem test_ready (b : RecordBody) (s : State) (hs : s.chain.scan.isSome = true) (hw : 2 ≤ s.wb.free) :
    (holding b s).readyToTake ⟨recHead 0, b⟩ := ⟨rfl, hs, hw⟩

theorem test_meets_RecordTaken (b : RecordBody) : (holding b reading).readyToTake ⟨recHead 0, b⟩ ∧
    takesBody .cue (.cue cueRec) = true ∧ takesBody .cancel (.cancel 5) = true ∧
    takesBody .release (.release releaseRec) = true ∧ takesBody .patch (.patch patchRec) = true ∧
    takesBody .unpatch (.unpatch 40) = true ∧ takesBody .clearHead (.clearHead 40) = true ∧
    takesBody .profile (.profile (profileRec false)) = true ∧ takesBody .profileRemove (.profile (profileRec true)) = true ∧
    takesBody .sector (.sector (sectorRec false)) = true ∧ takesBody .sectorRemove (.sector (sectorRec true)) = true ∧
    takesBody .line (.line (lineRec true)) = true ∧ takesBody .clockInternal (.clock (clockRec 1)) = true ∧
    takesBody .clockHalt (.clock (clockRec 2)) = true ∧ takesBody .clockChase (.clock (clockRec 3)) = true ∧
    takesBody .clockChase (.clock (clockRec 9)) = true ∧ takesBody .unknownKindRecord .unknown = true :=
  ⟨test_ready b reading (by decide +kernel) (by decide +kernel), by decide +kernel⟩

/-- A record of unknown kind held, with its next link, in a scan that has taken some, with updates listed. -/
def scanning (taken link updates : Nat) : State :=
  listed updates { reading with chain := { reading.chain with
    scan := some taken, holding := some ⟨{ recHead 0 with next := link }, .unknown⟩ } }

/-- A taking in that scan is followed by a test. -/
def scanned (taken link updates : Nat) (p : State → Bool) : Bool := did .unknownKindRecord (scanning taken link updates) p

/-- The header sample of the scan's end. -/
def endSample : Sample := ⟨0x5000, 1, 0, .halted, .reading⟩

theorem test_meets_RecordTaken_scan :
    (scanning 31 0x6000 0).readyToTake ⟨{ recHead 0 with next := 0x6000 }, .unknown⟩ ∧
    ((scanning 30 0x6000 0).chain.scan = some 30 ∧ (scanning 30 0x6000 0).rig.offered = []) ∧
    -- links that are broken, and one that is not
    (0x6008 % 16 ≠ 0 ∧ reading.fits 0xFFF0 32 = false ∧ ¬(0xFFE0 % 16 ≠ 0 ∨ reading.fits 0xFFE0 32 = false)) ∧
    -- the scan goes on at its 31st record, and ends at its 32nd, at a link of 0, at a broken one, without room
    scanned 30 0x6000 125 (fun t => t.chain.scan == some 31 && t.wb.list.length == 126) = true ∧
    scanned 31 0x6000 0 (fun t => t.chain.scan.isNone && t.chain.condition == .clear) = true ∧
    scanned 5 0 0 (fun t => t.chain.scan.isNone && t.chain.condition == .clear) = true ∧
    scanned 5 0x6008 0 (fun t => t.chain.scan.isNone && t.chain.condition == .broken && t.regs.latch.chain) = true ∧
    scanned 5 0x6000 126 (fun t => t.chain.scan.isNone && t.chain.condition == .clear && t.wb.list.length == 127) = true ∧
    -- a sample that differs from the last waits behind the one waiting; one that does not is not handed over
    scanned 31 0x6000 0 (fun t => t.chain.lastSample == some endSample && t.wb.later == some ⟨endSample, 1⟩) = true ∧
    reading.chain.lastSample ≠ some endSample ∧ reading.wb.waiting ≠ none ∧
    did .unknownKindRecord { scanning 31 0x6000 0 with chain := { (scanning 31 0x6000 0).chain with lastSample := some endSample } }
      (fun t => t.wb.later.isNone && t.wb.waiting == reading.wb.waiting) = true ∧
    did .unknownKindRecord { scanning 31 0x6000 0 with wb := WriteBack.reset }
      (fun t => t.wb.waiting == some ⟨endSample, 1⟩) = true := by
  exact ⟨⟨rfl, rfl, by decide +kernel⟩, by decide +kernel⟩

theorem test_meets_ProfileRecord (x : ProfileRec) :
    (holding (.profile x) (withHead 40 (head .active) reading)).readyToTake ⟨recHead 0, .profile x⟩ ∧
    31 < ({ profileRec false with slot := 32 } : ProfileRec).slot ∧
    ¬(({ profileRec false with count := 7 } : ProfileRec).remove = true ∨
      ({ profileRec false with count := 7 } : ProfileRec).inRange) ∧
    ¬({ profileRec false with panMin := 100 } : ProfileRec).inRange ∧
    ¬({ profileRec false with panMax := 27001 } : ProfileRec).inRange ∧
    ¬({ profileRec false with tiltSpeed := 0 } : ProfileRec).inRange ∧
    ¬({ profileRec false with strike := 61 } : ProfileRec).inRange ∧
    ({ profileRec false with panMax := 27000, panSpeed := 720, strike := 60, cooling := 900 } : ProfileRec).inRange ∧
    (profileRec true).remove = true ∧ (profileRec false).inRange ∧
    (∃ i b, ((withHead 40 (head .active) reading).rig.heads.get i).avail ≠ .unpatched ∧
      ((withHead 40 (head .active) reading).rig.heads.get i).binding = some b ∧ b.profile = 0) ∧
    ¬∃ i b, (reading.rig.heads.get i).avail ≠ .unpatched ∧ (reading.rig.heads.get i).binding = some b ∧ b.profile = 3 := by
  simp only [← ProfileRec.formOk_iff]
  refine ⟨test_ready _ _ (by decide +kernel) (by decide +kernel), by decide +kernel, by decide +kernel, by decide +kernel,
    by decide +kernel, by decide +kernel, by decide +kernel, by decide +kernel, by decide +kernel, by decide +kernel,
    ⟨40, binding, by decide +kernel⟩, ?_⟩
  rintro ⟨i, b, h, -⟩
  apply h
  have : reading.rig.heads.get i = Head.unpatched := by simp [reading, State.reset, Rig.reset, Vector.get]
  rw [this]
  rfl

/-- Head 40 in eight sectors. -/
def crowdedState : State :=
  { reading with rig := { reading.rig with members := upd reading.rig.members 40 [10, 11, 12, 13, 14, 15, 16, 17] } }

/-- The heads a sector would crowd. -/
def crowded (s : State) (x : SectorRec) (k : SectorIx) : List HeadIx :=
  (List.finRange 512).filter fun i => named (x.ranges.take x.count) i && !(s.rig.members.get i).contains k &&
    decide (8 ≤ (s.rig.members.get i).length)

theorem test_meets_SectorRecord (x : SectorRec) : (holding (.sector x) reading).readyToTake ⟨recHead 0, .sector x⟩ ∧
    63 < ({ sectorRec false with slot := 64 } : SectorRec).slot ∧
    ¬(({ sectorRec false with count := 9 } : SectorRec).remove = true ∨
      ({ sectorRec false with count := 9 } : SectorRec).inRange) ∧
    ¬({ sectorRec false with policy := 3 } : SectorRec).inRange ∧
    ¬({ sectorRec false with policy := 1, wayPan := 100 } : SectorRec).inRange ∧
    ({ sectorRec false with policy := 1, wayPan := 101 } : SectorRec).inRange ∧
    ({ sectorRec false with panMin := 100, ranges := [(511, 511)] } : SectorRec).inRange ∧
    (sectorRec true).remove = true ∧ (sectorRec false).inRange ∧ (head .active).accepted = some ⟨⟨0, 0⟩, some 9⟩ ∧
    crowded crowdedState (sectorRec false) 3 = [40] ∧ crowded reading (sectorRec false) 3 = [] ∧
    reading.rig.sectors.get 3 = none ∧ (upd reading.rig.sectors 3 (some (sectorRec false).kept)).get 3 ≠ none ∧
    ((head .active).avail ≠ .unpatched ∧ (head .active).settled = true ∧
      named ((sectorRec false).ranges.take (sectorRec false).count) 40 = true) := by
  simp only [← SectorRec.formOk_iff]
  exact ⟨test_ready _ _ (by decide +kernel) (by decide +kernel), by decide +kernel⟩

theorem test_meets_PatchRecord (x : PatchRec) :
    (holding (.patch x) (rigged .active line reading)).readyToTake ⟨recHead 0, .patch x⟩ ∧
    511 < ({ patchRec with head := 512 } : PatchRec).head ∧ 15 < ({ patchRec with line := 16 } : PatchRec).line ∧
    ({ patchRec with address := 0 } : PatchRec).address < 1 ∧ 32 < ({ patchRec with address := 33 } : PatchRec).address ∧
    (({ patchRec with panSign := 2 } : PatchRec).panSign ≠ 1 ∧ ({ patchRec with panSign := 2 } : PatchRec).panSign ≠ -1) ∧
    (patchRec.head = (40 : HeadIx).val ∧ patchRec.line = binding.line.val ∧ patchRec.address = binding.address.val + 1 ∧
      patchRec.profile = binding.profile.val ∧ signOf patchRec.panSign = some binding.panSign ∧
      signOf patchRec.tiltSign = some binding.tiltSign) ∧
    signOf 0 = some .held ∧ signOf (-1) = some .minus ∧
    ((rigged .active line reading).rig.heads.get 40).avail ≠ .unpatched ∧
    ((rigged .active line reading).rig.heads.get 41).avail = .unpatched ∧
    ((rigged .active line reading).rig.lines.get 2).addrMap.get 4 ≠ none ∧
    ((rigged .active line reading).rig.lines.get 2).addrMap.get 5 = none ∧
    (rigged .active line reading).rig.profiles.get 1 = none ∧
    (rigged .active line reading).rig.profiles.get 0 = some profile :=
  ⟨test_ready _ _ (by decide +kernel) (by decide +kernel), by decide +kernel⟩

theorem test_meets_UnpatchRecord (n : Nat) :
    (holding (.unpatch n) (rigged .active line reading)).readyToTake ⟨recHead 0, .unpatch n⟩ ∧
    ((rigged .active line reading).rig.heads.get 40).avail ≠ .unpatched ∧
    ((rigged .active line reading).rig.heads.get 40).binding = some binding ∧
    ((rigged .active line reading).rig.heads.get 511).avail = .unpatched :=
  ⟨test_ready _ _ (by decide +kernel) (by decide +kernel), by decide +kernel⟩

/-- L2 at mark but not quiet yet, with work and a queue: head 40's AIM, then a LATCH. -/
def waitingLine (w : Work) : Line := { working w with quietAt := some 20040, queue := [.aim 40, .latch 3] }

/-- Head 40 holding a move of slot 3's cue. -/
def moving (m : MoveState) : Head := { head .active with move := some (move m), settled := false }

/-- Head 40 with a move, slot 3 that counts it, and L2 with an exchange. -/
def movingState (m : MoveState) (e : Exchange) : State :=
  withHead 40 (moving m) (withSlot 3 slot (rigged .active (waitingLine (.exchange e)) reading))

theorem test_meets_UnpatchRecord_clauses :
    (∀ a, (waitingLine .idle).addrMap.get a = some 40 ↔ a = binding.address) ∧
    (head .active).move = none ∧ (waitingLine .idle).still ∧ (exchange .aim none).head = 40 ∧
    (exchange .aim none).phase = .window 20400 ∧
    ({ exchange .aim none with phase := .transmitting true } : Exchange).phase = .transmitting true ∧
    ({ exchange .aim none with phase := .retransmit } : Exchange).phase = .retransmit ∧
    ({ exchange .aim none with phase := .nextAttempt } : Exchange).phase = .nextAttempt ∧
    (movingState .onWire (exchange .aim none)).rig.noGathering ∧
    (movingState .onWire (exchange .aim none)).rig.slots.get 3 = some slot ∧
    ((movingState .onWire (exchange .aim none)).rig.heads.get 40).move = some (move .onWire) ∧
    (move .onWire).cue = some 3 ∧ (move .onWire).cue ≠ some 4 := by
  refine ⟨by decide +kernel, rfl, ?_, rfl, rfl, rfl, rfl, rfl, ?_, by decide +kernel, by decide +kernel, rfl, by decide⟩
  · unfold Line.still; decide +kernel
  · have : ∀ k : SlotIx, ((movingState .onWire (exchange .aim none)).rig.slots.get k).all
        (fun y => y.gathering.state != .gathering) = true := by decide +kernel
    intro k y hy
    simpa [hy] using this k

theorem test_meets_ClearHeadRecord (n : Nat) :
    (holding (.clearHead n) (rigged .fault (working look) reading)).readyToTake ⟨recHead 0, .clearHead n⟩ ∧
    ((rigged .fault (working look) reading).rig.heads.get 40).avail = .fault ∧
    ((rigged .fault (working look) reading).rig.heads.get 40).binding = some binding ∧ (working look).occupied ∧
    ((rigged .fault line reading).rig.heads.get 41).avail = .unpatched ∧
    ((rigged .active line reading).rig.heads.get 40).avail ≠ .fault :=
  ⟨test_ready _ _ (by decide +kernel) (by decide +kernel), by unfold Line.occupied; decide +kernel⟩

/-- A head with LIVE cells of COLOUR and BEAM. -/
def lit : Head :=
  { head .active with
    liveCol := some ⟨#v[9, 0, 0, 0, 0, 0], ⟨Colour.zero, 0, 0⟩, 1⟩, liveBeam := some ⟨9, ⟨0, 0, 0⟩, 1⟩ }

theorem test_meets_ReleaseRecord (x : ReleaseRec) :
    (holding (.release x) (withHead 40 lit reading)).readyToTake ⟨recHead 0, .release x⟩ ∧
    ¬({ releaseRec with layer := 0 } : ReleaseRec).inRange ∧ ¬({ releaseRec with fade := 60001 } : ReleaseRec).inRange ∧
    ¬({ releaseRec with colour := false } : ReleaseRec).inRange ∧ releaseRec.inRange ∧
    ¬({ releaseRec with ranges := [(41, 40)] } : ReleaseRec).inRange ∧
    ({ releaseRec with fade := 60000, beam := true, position := true } : ReleaseRec).inRange ∧
    named (releaseRec.ranges.take releaseRec.count) 40 = true ∧ lit.avail ≠ .unpatched ∧ lit.liveCol.isSome = true ∧
    lit.liveBeam.isSome = true :=
  ⟨test_ready _ _ (by decide +kernel) (by decide +kernel), by simp only [← ReleaseRec.formOk_iff]; decide +kernel⟩

/-- A head with a LIVE and a SHOW position: at the SHOW one, at another, holding a move. -/
def held : Head :=
  { head .active with livePos := some ⟨⟨50, 50⟩, 0, 1⟩, showPos := some ⟨⟨0, 0⟩, 0, 1⟩ }

theorem test_meets_ReleaseRecord_catchUp :
    (withHead 40 held (rigged .active line reading) |> withHead 40 held).rig.profiles.get binding.profile = some profile ∧
    held.livePos.isSome = true ∧ held.avail = .active ∧ held.showPos = some ⟨⟨0, 0⟩, 0, 1⟩ ∧ held.binding = some binding ∧
    held.move = none ∧ held.accepted.map Accepted.point = some (binding.heldPoint ⟨0, 0⟩) ∧
    held.accepted.map Accepted.point ≠ some (binding.heldPoint ⟨0, 1⟩) ∧ (moving .travelling).move.isSome = true ∧
    ({ releaseRec with position := true } : ReleaseRec).position = true ∧ (lit.livePos.isSome = false) ∧
    reading.rig.noGathering := by
  refine ⟨by decide +kernel, rfl, rfl, rfl, rfl, rfl, rfl, by decide +kernel, rfl, rfl, rfl, fun k y hy => ?_⟩
  simp [reading, State.reset, Rig.reset, Vector.get] at hy

/-- A LINE record's periods lie in their ranges. -/
def goodLine (x : LineRec) : Prop :=
  (x.refresh = 0 ∨ (10 ≤ x.refresh ∧ x.refresh ≤ 200)) ∧ (x.poll = 0 ∨ (5 ≤ x.poll ∧ x.poll ≤ 100))

theorem test_meets_LineRecordTaken (x : LineRec) :
    (holding (.line x) (rigged .active line reading)).readyToTake ⟨recHead 0, .line x⟩ ∧
    ¬goodLine ⟨2, true, true, false, 9, 5⟩ ∧ ¬goodLine ⟨2, true, true, false, 201, 5⟩ ∧
    ¬goodLine ⟨2, true, true, false, 10, 4⟩ ∧ ¬goodLine ⟨2, true, true, false, 10, 101⟩ ∧
    goodLine ⟨2, true, true, false, 10, 5⟩ ∧ goodLine ⟨2, false, true, true, 200, 100⟩ ∧ goodLine ⟨2, true, true, false, 0, 0⟩ ∧
    Line.reset.state = .disabled ∧ line.state.inService = true ∧ line.addrMap.get 4 = some 40 ∧
    (∀ a, line.addrMap.get a ≠ some 41) :=
  ⟨test_ready _ _ (by decide +kernel) (by decide +kernel), by unfold goodLine; decide +kernel⟩

/-- L2 DISABLED with head 40, at mark and quiet or not. -/
def restored (q : Option Nat) : State := rigged .offline { line with state := .disabled, quietAt := q } reading

/-- What coming back into service is said for: an empty line whose map and bindings agree; quiet, or not. -/
theorem test_meets_backInService :
    (((restored none).rig.lines.get 2).queue = [] ∧ ((restored none).rig.lines.get 2).overflow = []) ∧
    (∀ a, line.owed.get a = Owed.none ∧ line.refreshDue.get a = none) ∧
    (∀ i b, ((restored none).rig.heads.get i).binding = some b → b.line = 2 → line.addrMap.get b.address = some i) ∧
    (∀ a i, line.addrMap.get a = some i →
      ∃ b, ((restored none).rig.heads.get i).binding = some b ∧ b.line = 2 ∧ b.address = a) ∧
    (((restored none).rig.lines.get 2).work = .idle ∧ ((restored none).rig.lines.get 2).quietAt = none) ∧
    ((restored (some 20040)).rig.lines.get 2).quietAt ≠ none ∧
    line.identsInOrder = [.service 40 .ident] ∧ (∀ a', a' < 4 → line.addrMap.get a' = none) := by
  have hm : ∀ a, (line.addrMap.get a).all (fun i => i == 40 && a == 4) = true := by decide +kernel
  refine ⟨by decide +kernel, by decide +kernel, fun i b hi _ => ?_, fun a i ha => ?_, by decide +kernel, by decide +kernel,
    by decide +kernel, by decide +kernel⟩
  · obtain ⟨rfl, rfl⟩ := test_rigged_binding _ _ hi
    decide +kernel
  · have := hm a
    rw [ha] at this
    simp only [Option.all_some, Bool.and_eq_true, beq_iff_eq] at this
    obtain ⟨rfl, rfl⟩ := this
    exact ⟨binding, by decide +kernel, rfl, rfl⟩

/-- Enabled, a quiet line sends the IDENT of its head; one that is not quiet keeps it queued. -/
theorem test_backInService :
    did .line (holding (.line (lineRec true)) (restored none)) (fun t => (t.rig.lines.get 2).queue == [] &&
      (t.rig.lines.get 2).work == .exchange ⟨.ident, 40, 4, 0, none, plainFrame 4 .ident 0, 1, .transmitting true, false,
        false⟩) = true ∧
    did .line (holding (.line (lineRec true)) (restored (some 20040)))
      (fun t => (t.rig.lines.get 2).queue == [.service 40 .ident]) = true := by decide +kernel

/-- What going out of service is said for: a head bound once, taking LOOK frames, holding a move that a slot counts. -/
theorem test_meets_outOfService :
    (movingState .travelling (exchange .poll none)).rig.noGathering ∧
    ((movingState .travelling (exchange .poll none)).rig.lines.get 2).addrMap.get 4 = some 40 ∧
    (∀ m a', ((movingState .travelling (exchange .poll none)).rig.lines.get m).addrMap.get a' = some 40 → m = 2) ∧
    (moving .travelling).lit ∧ (moving .travelling).binding = some binding ∧
    (movingState .travelling (exchange .poll none)).rig.slots.get 3 = some slot ∧
    did .line (holding (.line (lineRec false)) (movingState .travelling (exchange .poll none))) (fun t =>
      (t.rig.heads.get 40).lastOutcome == some .lineDown && (t.rig.heads.get 40).move.isNone &&
      (t.rig.slots.get 3).map Running.counts == some ⟨0, 0, 0, 0, 0, 1⟩ &&
      (t.rig.lines.get 2).work == .exchange { exchange .poll none with stopped := true }) = true ∧
    -- the work of a line being disabled: a phase that is dropped, a LATCH held and one on the wire
    ({ exchange .aim none with phase := .retransmit } : Exchange).phase = .retransmit ∧
    (working (.latch 3 none [])).work = .latch 3 none [] ∧ (working (.latch 3 (some true) [])).work = .latch 3 (some true) [] ∧
    ({ line with state := .jammed, timer := some 90 } : Line).state = .jammed ∧
    -- the echo check going off
    ((line.echo = true ∧ ({ lineRec true with echo := false } : LineRec).echo = false) ∧
      did .line (holding (.line { lineRec true with echo := false }) (rigged .active { line with run := 3 } reading))
        (fun t => (t.rig.lines.get 2).run == 0) = true) := by
  refine ⟨?_, by decide +kernel, ?_, by unfold Head.lit; decide +kernel, rfl, by decide +kernel, by decide +kernel, rfl,
    rfl, rfl, rfl, by decide +kernel⟩
  · have : ∀ k : SlotIx, ((movingState .travelling (exchange .poll none)).rig.slots.get k).all
        (fun y => y.gathering.state != .gathering) = true := by decide +kernel
    intro k y hy
    simpa [hy] using this k
  · have : ∀ m : LineIx, ∀ a : AddrIx,
        (((movingState .travelling (exchange .poll none)).rig.lines.get m).addrMap.get a != some 40 || m == 2) = true := by
      decide +kernel
    intro m a h
    simpa [h] using this m a

theorem test_meets_ClockRecords (x : ClockRec) (c : Clock) :
    (holding (.clock x) (withClock c reading)).readyToTake ⟨recHead 0, .clock x⟩ ∧
    (clockRec 1).command = 1 ∧ (clockRec 2).command = 2 ∧ (clockRec 3).command = 3 ∧
    86399999 < ({ clockRec 1 with start := 86400000 } : ClockRec).start ∧
    ({ clockRec 1 with start := 86399999 } : ClockRec).start ≤ 86399999 ∧
    Clock.reset.state = .halted ∧ running.state ≠ .halted ∧
    -- a jump forward from 1,000 ms to 5,000 ms passes over a cue at 3,000 ms; halted, nothing fires and nothing is dropped
    running.showTime + running.threshold < (clockRec 1).start ∧ ({ clockRec 1 with run := false } : ClockRec).run = false ∧
    skipMarked 1000 5000 [cue 5 3000, cue 6 5000] = [{ cue 5 3000 with skip := true }, cue 6 5000] ∧
    ({ cue 5 3000 with skip := true } : Cue).dropped = false :=
  ⟨test_ready _ _ rfl (show 2 ≤ reading.wb.free by decide +kernel), by decide +kernel⟩

/-- A CHASE record's fields lie in their ranges. -/
def goodChase (x : ClockRec) : Prop :=
  (x.rate = 24 ∨ x.rate = 25 ∨ x.rate = 30) ∧ (x.limit = 65535 ∨ x.limit ≤ 30000) ∧
    (x.threshold = 0 ∨ (20 ≤ x.threshold ∧ x.threshold ≤ 5000))

theorem test_meets_ClockChaseRecord :
    ¬goodChase ⟨3, false, 29, 0, 0, 0⟩ ∧ ¬goodChase ⟨3, false, 24, 0, 30001, 0⟩ ∧ ¬goodChase ⟨3, false, 24, 0, 0, 19⟩ ∧
    ¬goodChase ⟨3, false, 24, 0, 0, 5001⟩ ∧ goodChase ⟨3, false, 25, 0, 30000, 5000⟩ ∧
    goodChase ⟨3, false, 30, 0, 65535, 20⟩ ∧ Clock.reset.rate.fps = 25 ∧ Clock.reset.rate.fps ≠ 24 ∧
    locked.clock.state = .locked ∧ locked.clock.freewheelStart = none ∧
    -- a freewheel from 500,000 ms to 502,000 ms, at 500,400 ms, and one whose new limit has run out
    locked.now < 500000 + 2000 ∧ 500000 + 400 ≤ locked.now := by unfold goodChase; decide +kernel


/-- A clock chasing at 25 frames per second with a freewheel begun at 500,000 ms. -/
def chasing (c : ClockState) : State :=
  withClock { locked.clock with state := c, freewheelStart := some 500000, freewheelDeadline := some 500400 } locked

theorem test_meets_ClockChaseRecord_freewheel :
    (chasing .freewheel).clock.state = .freewheel ∧ (chasing .seeking).clock.state = .seeking ∧
    (chasing .held).clock.state = .held ∧ (chasing .freewheel).clock.rate.fps = 25 ∧
    (chasing .freewheel).clock.freewheelStart = some 500000 ∧
    (chasing .freewheel).now < 500000 + 401 ∧ 500000 + 400 ≤ (chasing .freewheel).now := by decide +kernel

/-- A pending list that waits. -/
theorem test_cuesStill (s : State) (h : s.clock.state.firing = false) (hc : s.cues.all (fun c => !c.dropped) = true) :
    s.cuesStill := by
  refine ⟨h, fun c hm => ?_⟩
  have := List.all_eq_true.mp hc c hm
  simpa using this

/-- Every slot taken. -/
def slotsTaken : State := { reading with rig := { reading.rig with slots := Vector.replicate 64 (some slot) } }

theorem test_meets_CueRecord :
    (holding (.cue cueRec) (withCues [cue 7 5, cue 8 9] reading)).readyToTake ⟨recHead 0, .cue cueRec⟩ ∧
    (withCues [cue 7 5, cue 8 9] reading).cuesStill ∧ cueRec.inRange ∧
    ¬({ cueRec with layer := 2 } : CueRec).inRange ∧ ¬({ cueRec with count := 65 } : CueRec).inRange ∧
    ¬({ cueRec with entries := [entryRec, entryRec] } : CueRec).inRange ∧
    ¬({ cueRec with goPresent := true, goTime := 86400000 } : CueRec).inRange ∧
    ¬({ cueRec with together := true, latchWait := 9 } : CueRec).inRange ∧
    ({ cueRec with together := true, latchWait := 1000, goPresent := true, goTime := 86399999 } : CueRec).inRange ∧
    ({ cueRec with goPresent := true, goTime := 999 } : CueRec).inRange ∧ 999 < running.showTime ∧ cueRec.skip = 0 ∧
    ({ cueRec with skip := 1 } : CueRec).skip = 1 ∧ reading.rig.offered = [] ∧ slotsTaken.rig.freeSlot = none ∧ (∃ d ∈ [cue 7 5, cue 8 9], d.tag = 7) ∧
    ¬(∃ d ∈ [cue 5 5, cue 8 9], d.tag = 7) ∧ 256 ≤ (List.replicate 256 (cue 5 5)).length ∧
    4096 < poolUsed [{ cue 5 5 with entries := List.replicate 4096 entry }] + cueRec.entries.length ∧
    ¬(256 ≤ [cue 5 5, cue 8 9].length ∨ 4096 < poolUsed [cue 5 5, cue 8 9] + cueRec.entries.length) ∧
    (withClock running reading).cues = [] ∧ (withClock running reading).clock.state.firing = true ∧
    cueRec.goPresent = false ∧ (withClock running reading).rig.freeSlot = some 0 :=
  ⟨test_ready _ _ (by decide +kernel) (by decide +kernel), test_cuesStill _ (by decide +kernel) (by decide +kernel),
    by simp only [← CueRec.formOk_iff]; decide +kernel⟩

theorem test_meets_CancelRecord :
    (holding (.cancel 7) (withSlot 3 slot (withCues [cue 5 5, cue 7 9] reading))).readyToTake ⟨recHead 0, .cancel 7⟩ ∧
    (withCues [cue 5 5, cue 7 9] reading).cuesStill ∧ [cue 5 5, cue 7 9] = [cue 5 5] ++ cue 7 9 :: [] ∧
    (cue 7 9).tag = 7 ∧ (∀ d ∈ [cue 5 5], d.tag ≠ 7) ∧
    ((withSlot 3 slot reading).rig.slots.get 3).map Running.tag = some 77 ∧
    (∀ j : SlotIx, j < 3 → ((withSlot 3 slot reading).rig.slots.get j).map Running.tag ≠ some 77) ∧
    ∀ k : SlotIx, ((withSlot 3 slot reading).rig.slots.get k).map Running.tag ≠ some 78 :=
  ⟨test_ready _ _ (by decide +kernel) (by decide +kernel), test_cuesStill _ (by decide +kernel) (by decide +kernel),
    by decide +kernel⟩

/-- What the pool keeps of an entry with a COLOUR of three components: those, and 0 beyond them. -/
theorem test_meets_keptAs : ∃ w q, entryRec.kept = some w ∧ w.colour = some q ∧ entryRec.colour = true ∧
    entryRec.colourCount = 3 ∧ q.target.get 2 = 3 ∧ q.target.get 3 = 0 ∧
    (entryRec, w) ∈ cueRec.entries.zip (cueRec.entries.filterMap EntryRec.kept) :=
  ⟨_, _, rfl, rfl, rfl, rfl, by decide +kernel, by decide +kernel, by decide +kernel⟩

theorem test_meets_UnknownKindRecord : (holding .unknown reading).readyToTake ⟨recHead 0, .unknown⟩ :=
  test_ready _ _ (by decide +kernel) (by decide +kernel)

/-- An update of slot 3's cue. -/
def finalUpdate : Update := ⟨0x5400, .done, .ok, [], some 3⟩

theorem test_meets_UpdateWritten : (withCues [cue 5 5] (listed 1 reading)).cuesStill ∧
    (listed 2 reading).wb.list = ⟨0x5000, .taken, .ok, [], none⟩ :: [⟨0x5000, .taken, .ok, [], none⟩] ∧
    (onBus (.result finalUpdate) reading).bus.outstanding = some ⟨.result finalUpdate, 20000, false⟩ ∧
    (onBus (.state finalUpdate) reading).bus.outstanding = some ⟨.state finalUpdate, 20000, false⟩ ∧
    reading.micros ≤ 20000 ∧ finalUpdate.slot = some 3 ∧ finalUpdate.slot ≠ some 4 :=
  ⟨test_cuesStill _ (by decide +kernel) (by decide +kernel), by decide +kernel⟩

theorem test_meets_MirrorAndHeaderWritten :
    (onBus (.mirror 40 (.head 40 .active) []) reading).bus.outstanding = some ⟨.mirror 40 (.head 40 .active) [], 20000, false⟩ ∧
    (onBus (.mirror 514 (.line 2 .running) []) reading).bus.outstanding =
      some ⟨.mirror 514 (.line 2 .running) [], 20000, false⟩ ∧
    (∃ p, reading.bus.outstanding = some ⟨.header p, 30000, false⟩) ∧ reading.micros ≤ 30000 :=
  ⟨by decide +kernel, by decide +kernel, ⟨_, rfl⟩, by decide +kernel⟩

/-- The header write is on the bus and three entries are to be written: the sweep stands at one, after it or beyond all. -/
def sweeping (at_ : MirrorIx) (updates : Nat) (later : Option HeldSample) : State :=
  { reading with
    rig := { reading.rig with marks := upd (upd reading.rig.marks 40 true) 514 true }
    wb := { (listed updates reading).wb with sweep := at_, sinceMirror := 8, later := later } }

/-- The next marked entry of a sweep, some steps on. -/
def nextAt (s : State) (m : MirrorIx) (n : Fin 528) : Prop :=
  m = s.wb.sweep + n ∧ s.rig.marks.get m = true ∧ ∀ n' : Fin 528, n' < n → s.rig.marks.get (s.wb.sweep + n') = false

theorem test_meets_MirrorAndHeaderWritten_choice :
    (reading.chain.engine = .reading ∧ reading.bus.readerReq = none ∧ reading.bus.writerReq = none ∧
      reading.rig.offered = []) ∧
    nextAt (sweeping 40 1 none) 40 0 ∧ nextAt (sweeping 41 1 none) 514 473 ∧ nextAt (sweeping 515 0 none) 40 53 ∧
    (8 ≤ (sweeping 40 1 none).wb.sinceMirror ∧ (sweeping 40 1 none).rig.marks.get 40 = true) ∧
    headEntry 40 = 40 ∧ lineEntry 2 = 514 ∧ (sweeping 515 0 none).wb.list = [] ∧
    ¬(8 ≤ reading.wb.sinceMirror) ∧ (listed 1 reading).wb.later = none ∧ (∃ u rest, (listed 1 reading).wb.list = u :: rest) ∧
    (∀ m, reading.rig.marks.get m = false) ∧
    (sweeping 40 1 (some ⟨⟨0, 0, 0, .halted, .reading⟩, 0⟩)).wb.later = some ⟨⟨0, 0, 0, .halted, .reading⟩, 0⟩ ∧
    -- a command that changes what an entry carries
    did (.jamHoldExpiry 2) (rigged .offline { line with state := .jammed, timer := some 20 } reading)
      (fun t => (t.rig.heads.get 40).mirrored != (head .offline).mirrored) = true := by
  unfold nextAt
  refine ⟨by decide +kernel, by decide +kernel, by decide +kernel, by decide +kernel, by decide +kernel, by decide +kernel,
    by decide +kernel, rfl, by decide +kernel, rfl, ⟨_, _, rfl⟩, by decide +kernel, rfl, by decide +kernel⟩

theorem test_meets_AccessFails : State.reset.bus.outstanding = none ∧
    (onBus (.read (.link 0)) reading).bus.outstanding = some ⟨.read (.link 0), 20000, false⟩ ∧
    20000 ≤ reading.micros ∧ reading.micros ≤ 20000 ∧ reading.micros < 30000 ∧
    20000 < ({ reading with micros := 20001 } : State).micros ∧ State.reset.chain.engine = .idle ∧ reading.chain.engine ≠ .idle := by
  decide +kernel

theorem test_meets_FiringAtFront :
    (withCues [cue 5 1000, cue 6 1000] (withClock running reading)).cues = cue 5 1000 :: [cue 6 1000] ∧
    (cue 5 1000).dropped = false ∧ ({ cue 5 1001 with skip := true } : Cue).dropped = false ∧
    running.state = .internal ∧ (cue 5 1000).goTime ≤ running.showTime ∧ ¬((cue 5 1001).goTime ≤ running.showTime) ∧
    (withSlot 0 slot reading).rig.slots.get 1 = none ∧ (withSlot 0 slot reading).rig.slots.get 0 ≠ none ∧
    (∀ k, slotsTaken.rig.slots.get k ≠ none) ∧ ¬(Clock.reset.state = .internal) := by decide +kernel

theorem test_meets_FiredEntryApplied : (cue 5 1000).dropped = false ∧ (cue 5 1000).entries = [entry] ∧
    running.state.firing = true ∧ (cue 5 1000).goTime ≤ running.showTime ∧ reading.rig.freeSlot = some 0 ∧
    ((rigged .active line reading).rig.heads.get entry.head).avail = .active ∧ entry.position = none ∧
    ((rigged .lost line reading).rig.heads.get entry.head).avail ≠ .active ∧ (cue 5 1000).layer = .show ∧
    ({ cue 5 1000 with layer := .live } : Cue).layer = .live := by decide +kernel

/-- An entry with a POSITION, and one with a lamp request. -/
def aiming (p : Point) : Entry := ⟨40, some ⟨p, 50⟩, none, none, .none⟩
def striking (q : LampReq) : Entry := ⟨40, none, none, some ⟨9, 0⟩, q⟩

/-- The plan the firing of such an entry makes for head 40 at (0, 0). -/
def planned (p : Point) : Plan :=
  plan profile binding ((rigged .active line reading).rig.candidates 40) ((head .active).hullFor (binding.heldPoint p))
    (binding.heldPoint p) 50

theorem test_meets_FiredEntryApplied_position : (aiming ⟨100, 200⟩).position = some ⟨⟨100, 200⟩, 50⟩ ∧
    (head .active).livePos = none ∧ held.livePos.isSome = true ∧ (head .active).binding = some binding ∧
    (rigged .active line reading).rig.profiles.get binding.profile = some profile ∧ reading.rig.noGathering ∧
    (head .active).move.bind Move.cue ≠ some 0 ∧ (moving .onWire).move.bind Move.cue = some 3 ∧
    (∃ reason, planned ⟨27001, 0⟩ = .refused reason) ∧ (∃ reason, planned ⟨0, 12001⟩ = .refused reason) ∧
    (∃ leg1 leg2 dark, planned ⟨27000, -12000⟩ = .legs leg1 leg2 dark) ∧
    (∃ m, (moving .onWire).move = some m ∧ (m.state = .onWire ∨ m.state = .staged)) ∧
    (working look).occupied ∧ (aiming ⟨100, 200⟩).lamp = .none ∧
    (withSlot 3 slot reading).rig.slots.get 3 = some slot ∧ (withSlot 3 slot reading).rig.freeSlot = some 0 := by
  refine ⟨rfl, rfl, rfl, rfl, by decide +kernel, fun k y hy => ?_, by decide +kernel, rfl, ⟨.range, by decide +kernel⟩,
    ⟨.range, by decide +kernel⟩, ⟨⟨⟨27000, -12000⟩, 1500, none⟩, none, false, by decide +kernel⟩, ⟨_, rfl, .inl rfl⟩, ?_, rfl,
    by decide +kernel, by decide +kernel⟩
  · simp [reading, State.reset, Rig.reset, Vector.get] at hy
  · unfold Line.occupied; decide +kernel

theorem test_meets_FiredEntryApplied_lamp : (striking .strike).lamp = .strike ∧ (striking .douse).lamp = .douse ∧
    (striking .none).lamp = .none ∧ (striking .strike).position = none ∧ profile.lamp = .discharge ∧
    ({ profile with lamp := .none } : Profile).lamp = .none ∧ (waitingLine .idle).still ∧
    (waitingLine .idle).addrMap.get binding.address = some 40 ∧ (waitingLine .idle).waiting = [] ∧
    Command.latch 0 ∉ (waitingLine .idle).queue ∧ (0 : SlotIx) ∉ (waitingLine .idle).overflow ∧
    (head .active).lamp = .off ∧ ({ head .fault with lamp := .lit } : Head).lamp = .lit ∧
    ({ head .active with lamp := .striking } : Head).lamp = .striking ∧
    ({ head .active with lamp := .cooling } : Head).lamp = .cooling ∧
    ¬((head .lost).avail = .active ∨ (head .lost).avail = .fault) := by unfold Line.still; decide +kernel

/-- An entry for an UNPATCHED head is counted REFUSED, and the cue retires at once with its final update (R33, R149). -/
theorem test_meets_FiredEntryApplied_unpatched : (reading.rig.heads.get entry.head).avail = .unpatched ∧
    reading.rig.offered = [] ∧ reading.wb.list.length < 128 ∧
    did .firing (withClock running (withCues [cue 5 900] reading)) (fun t =>
      (t.rig.slots.get 0).map (fun x => (x.counts, x.outstanding, x.retired)) == some (⟨0, 0, 0, 1, 0, 0⟩, 0, true) &&
      t.wb.list == [⟨0x5400, .done, .ok, cueArea 1000 100 ⟨0, 0, 0, 1, 0, 0⟩ true false, some 0⟩]) = true ∧
    -- whether the entry has cells that change the look
    entry.colour.isSome = true ∧ ((aiming ⟨100, 200⟩).colour.isSome = false ∧ (aiming ⟨100, 200⟩).beam.isSome = false) := by
  decide +kernel

theorem test_meets_PassedOverAtFront : State.reset.cues = [] ∧ (cue 5 900).skip = false ∧
    ({ cue 5 900 with skip := true, policy := .drop } : Cue).skip = true ∧
    ({ cue 5 900 with skip := true, policy := .drop } : Cue).policy = .drop ∧
    (listed 127 reading).givePlaces.wb.list.length < 128 ∧ 128 ≤ (listed 128 reading).givePlaces.wb.list.length := by
  decide +kernel

/-- A clock seeking with a run, its last frame at 500,320 ms. -/
def seeking (run : Nat) : State :=
  withClock { locked.clock with state := .seeking, lockRun := run, lastFrame := some ⟨1800009, 500320⟩ } locked

theorem test_meets_TimecodeFrameArrives :
    ¬(24 ≤ 23) ∧ ¬(25 < Clock.reset.rate.fps) ∧ (10 < Clock.reset.rate.fps) ∧ State.reset.clock.state = .halted ∧
    running.state = .internal ∧ locked.clock.state = .locked ∧
    -- 20:00:00:10 is frame 1,800,010; two frame periods have passed
    ((20 * 60 + 0) * 60 + 0) * 25 + 10 = 1800010 ∧
    (seeking 2).clock.state = .seeking ∧ (seeking 2).clock.lastFrame = some ⟨1800009, 500320⟩ ∧
    ((seeking 2).now - 500320) * 25 ≤ 2000 ∧ 2 ≤ (seeking 2).clock.lockRun ∧ (seeking 1).clock.lockRun < 2 ∧
    (chasing .freewheel).clock.state = .freewheel ∧ (chasing .held).clock.state = .held ∧
    -- 20:00:01:00 lies ahead of a locked 20:00:00.400
    locked.clock.showTime + locked.clock.threshold < ((20 * 60 + 0) * 60 + 1) * 1000 + 0 * 1000 / 25 := by decide +kernel

theorem test_meets_TimecodeFrameArrives_still : (withCues [cue 5 9] (seeking 1)).cuesStill :=
  test_cuesStill _ (by decide +kernel) (by decide +kernel)

theorem test_meets_ClockTimersExpire :
    ((withClock { locked.clock with lossTimer := some 500400 } locked).clock.lossTimer = some 500400 ∧
      500400 ≤ locked.now ∧ 0 < locked.clock.limit ∧ locked.now < 500401) ∧
    ({ locked.clock with limit := 0 } : Clock).limit = 0 ∧ running.state ≠ .locked ∧ running.lossTimer = none ∧
    running.freewheelDeadline = none ∧ (chasing .freewheel).clock.freewheelDeadline = some 500400 ∧
    (chasing .freewheel).clock.state = .freewheel ∧ (chasing .seeking).clock.state = .seeking := by decide +kernel

theorem test_meets_TimeGoesOn : reading.pending = [] ∧ ({ reading with micros := 20999 } : State).micros + 1 = 21000 ∧
    21000 % 1000 = 0 ∧ 20001 % 1000 ≠ 0 ∧ running.state = .internal ∧ ¬(Clock.reset.state = .internal) ∧
    ({ running with showTime := 86399999 } : Clock).showTime ≤ 86399999 := by decide +kernel

/-- A head with a lamp timer, and one that waits to be identified. -/
def timed (k : LampTimerKind) (x : Nat) : Head :=
  { head .active with lamp := .cooling, lampTimer := some ⟨k, x⟩, strikePending := true }
def waiting (t : Option Nat) : Head := { head .lost with identTimer := t }

theorem test_meets_HeadTimersExpire : (timed .strike 20).lampTimer = some ⟨.strike, 20⟩ ∧
    (timed .cooling 20).lampTimer = some ⟨.cooling, 20⟩ ∧ 20 ≤ reading.now ∧
    (∀ x, (head .active).lampTimer = some ⟨.strike, x⟩ → reading.now < x) ∧
    (∀ x, (head .active).lampTimer = some ⟨.cooling, x⟩ → reading.now < x) ∧
    (timed .cooling 20).strikePending = true ∧ (timed .cooling 20).avail = .active ∧
    (timed .cooling 20).binding = some binding ∧ (working look).occupied ∧
    (waiting (some 20)).avail = .lost ∧ (waiting (some 20)).identTimer = some 20 ∧
    (waiting none).identTimer = none ∧ reading.now < 21 ∧ (waiting none).binding = some binding := by
  refine ⟨rfl, rfl, by decide +kernel, fun x h => ?_, fun x h => ?_, rfl, rfl, rfl, ?_, rfl, rfl, rfl, by decide +kernel, rfl⟩
  · cases h
  · cases h
  · unfold Line.occupied; decide +kernel

/-- A TRAVELLING head. -/
def travelling (d : Nat) : Head := { head .active with move := some { move .travelling with deadline := some d } }

theorem test_meets_DeadlineExpires : (∃ m, (travelling 20).move = some m ∧ m.state = .travelling ∧ m.deadline = some 20 ∧
      m.cue = some 3 ∧ m.cue ≠ some 4) ∧ 20 ≤ reading.now ∧
    (withSlot 3 slot reading).rig.slots.get 3 = some slot ∧
    (∀ m x, (head .active).move = some m → m.state = .travelling → m.deadline = some x → reading.now < x) := by
  refine ⟨⟨_, rfl, by decide +kernel⟩, by decide +kernel, by decide +kernel, fun m x h => ?_⟩
  cases h

theorem test_meets_LatchDeadlineExpires : (withSlot 3 gathering reading).rig.slots.get 3 = some gathering ∧
    gathering.gathering.state = .gathering ∧ gathering.gathering.deadline = some 20 ∧ 20 ≤ reading.now ∧
    slot.gathering.state ≠ .gathering ∧ (move .planned).cue = some 3 ∧ (move .planned).state = .planned ∧
    (move .onWire).state = .onWire ∧ (move .onWire).state ≠ .staged ∧
    (∀ l, ((withLine 2 (working look) reading).rig.lines.get l).queue.length < 48) ∧ 0 < gathering.outstanding ∧
    gathering.gathering.lines.get 2 = true ∧ gathering.gathering.lines.get 3 = false ∧
    (working look).state.inService = true ∧ (working look).occupied := by
  unfold Line.occupied; decide +kernel

/-- L2 with its queue and its latch overflow full. -/
def fullLine : Line :=
  { line with
    quietAt := some 20040
    queue := (List.finRange 48).map fun i => Command.aim (i.castLE (by decide) + 100)
    overflow := [10, 11, 12, 13] }

theorem test_meets_LatchDeadlineExpires_full :
    (∀ l, ((withLine 2 { fullLine with overflow := [10, 11, 12] } reading).rig.lines.get l).queue.length < 48 ∨
      ((withLine 2 { fullLine with overflow := [10, 11, 12] } reading).rig.lines.get l).overflow.length < 4) ∧
    fullLine.still ∧ (∀ j, gathering.gathering.lines.get j = true ↔ j = 2) ∧ fullLine.state.inService = true ∧
    48 ≤ fullLine.queue.length ∧ 4 ≤ fullLine.overflow.length ∧ Command.latch 3 ∉ fullLine.queue ∧
    3 ∉ fullLine.overflow ∧ fullLine.work.holdsLatch 3 = false ∧
    (∃ m, stagedHead.move = some m ∧ m.state = .staged ∧ m.latch = some 3) ∧ fullLine.addrMap.get 4 = some 40 ∧
    (∀ a, fullLine.addrMap.get a ≠ some 41) := by
  refine ⟨by decide +kernel, ?_, by decide +kernel, by decide +kernel, by decide +kernel, by decide +kernel,
    by decide +kernel, by decide +kernel, by decide +kernel, ⟨_, rfl, rfl, rfl⟩, by decide +kernel, by decide +kernel⟩
  unfold Line.still; decide +kernel

/-! ### Lines -/

/-- What holds of every refresh due time of a line. -/
theorem test_everyDue (x : Line) (p : AddrIx → Nat → Bool) (h : ∀ a : Fin 32, (x.refreshDue.get a).all (p a) = true) :
    ∀ a d, x.refreshDue.get a = some d → p a d = true := fun a d e => by simpa [e] using h a

/-- L2 with head 40's refresh due at a time. -/
def dueAt (t : Nat) : Line := { line with refreshDue := upd line.refreshDue 4 (some t) }

/-- L2 with its poll period elapsed, and head 40 not settled. -/
def polled : Line := { line with lastPoll := 0 }
def unsettled : Head := { head .active with settled := false }

theorem test_meets_IdleLineSends :
    ((dueAt 20).state = .running ∧ (dueAt 20).work = .idle ∧ (dueAt 20).queue = [] ∧ (dueAt 20).quietAt = none) ∧
    (dueAt 20).addrMap.get 4 = some 40 ∧ (dueAt 20).refreshDue.get 4 = some 20 ∧ 20 ≤ reading.now ∧
    (∀ a' due', (dueAt 20).refreshDue.get a' = some due' → 20 < due' ∨ (20 = due' ∧ 4 ≤ a')) ∧
    reading.now < (dueAt 20).lastPoll + (dueAt 20).poll ∧ ({ dueAt 20 with lastPoll := 0 } : Line).framesSincePoll < 8 ∧
    polled.lastPoll + polled.poll ≤ reading.now ∧ polled.addrMap.get (polled.pollPos + 1 + 4) = some 40 ∧
    unsettled.avail = .active ∧ unsettled.settled = false ∧
    (∀ (n' : Fin 32) h', n' < 4 → polled.addrMap.get (polled.pollPos + 1 + n') ≠ some h') ∧
    (∀ a due, polled.refreshDue.get a = some due → reading.now < due) := by
  refine ⟨by decide +kernel, by decide +kernel, by decide +kernel, by decide +kernel, ?_, by decide +kernel,
    by decide +kernel, by decide +kernel, by decide +kernel, rfl, rfl, by decide +kernel, ?_⟩
  · intro a d h
    have := test_everyDue (dueAt 20) (fun a d => decide (20 < d ∨ (20 = d ∧ 4 ≤ a))) (by decide +kernel) a d h
    exact of_decide_eq_true this
  · intro a d h
    exact of_decide_eq_true (test_everyDue polled (fun _ d => decide (reading.now < d)) (by decide +kernel) a d h)

/-- L2 at mark for 40 µs by 20 ms, as LINE_QUIET finds it. -/
def hushing (x : Line) : Line := { x with quietAt := some 20000 }

theorem test_meets_IdleLineSends_quiet : (hushing (dueAt 20)).quietAt = some 20000 ∧ 20000 ≤ reading.micros ∧
    (hushing (dueAt 20)).state = .running ∧ (hushing (dueAt 20)).work = .idle ∧ (hushing (dueAt 20)).queue = [] ∧
    ({ line with quietAt := some 20001 } : Line).quietAt = some 20001 ∧ ¬(20001 ≤ reading.micros) ∧
    -- nothing to send: no refresh, no poll due; none to poll
    reading.now < line.lastPoll + line.poll ∧ (∀ a, (hushing { polled with addrMap := Line.reset.addrMap }).addrMap.get a = none) ∧
    -- a settled head and one in FAULT are pollable, not poll-wanted
    (head .active).settled = true ∧ (head .fault).avail = .fault ∧ (head .fault).avail ≠ .active := by decide +kernel

/-- L2 with commands queued, quiet from 20 ms on; in BACKOFF until 20 ms. -/
def queued (cs : List Command) : Line := { hushing line with queue := cs }
def backedOff (cs : List Command) : Line := { line with state := .backoff, timer := some 20, queue := cs }

theorem test_meets_QueueFrontSent (c : Command) (rest : List Command) :
    ((queued (c :: rest)).state = .running ∧ (queued (c :: rest)).quietAt = some 20000 ∧ 20000 ≤ reading.micros) ∧
    ((backedOff (c :: rest)).state = .backoff ∧ (backedOff (c :: rest)).quietAt = none ∧
      (backedOff (c :: rest)).timer = some 20 ∧ 20 ≤ reading.now) ∧
    ((queued (c :: rest)).work = .idle ∧ (queued (c :: rest)).queue = c :: rest) ∧
    -- no refresh and no poll due: the front is taken
    ((∀ a due, (queued (c :: rest)).refreshDue.get a ≠ some due) ∧
      reading.now < (queued (c :: rest)).lastPoll + (queued (c :: rest)).poll) ∧
    (head .active).binding = some binding ∧ (moving .planned).move = some (move .planned) ∧
    (({ move .planned with darken := true } : Move).darken = true ∧ (move .planned).darkSent = false) ∧
    line.addrMap.get binding.address = some 40 ∧
    (rigged .active line reading).othersStill 2 := by
  refine ⟨⟨rfl, rfl, by decide +kernel⟩, ⟨rfl, rfl, rfl, by decide +kernel⟩, ⟨rfl, rfl⟩,
    ⟨fun a d h => ?_, show reading.now < 40 by decide +kernel⟩, rfl, rfl, by decide +kernel, by decide +kernel, ?_⟩
  · simp [queued, hushing, line, Line.reset, Vector.get] at h
  · unfold State.othersStill; decide +kernel

/-- L2 with head 40's refresh due since a time, and four commands sent since the last LOOK. -/
def escalating (t n : Nat) : Line := { queued [.aim 40] with refreshDue := upd line.refreshDue 4 (some t), commandsSinceLook := n }

theorem test_meets_QueueFrontSent_escalated :
    ((escalating 8 0).refreshDue.get 4 = some 8 ∧ 8 + (escalating 8 0).refresh / 2 ≤ reading.now) ∧
    ((escalating 20 4).refreshDue.get 4 = some 20 ∧ 20 ≤ reading.now ∧ 4 ≤ (escalating 20 4).commandsSinceLook) ∧
    -- a refresh due, not overdue by half, with three commands sent: the front is taken
    ((escalating 9 3).refreshDue.get 4 = some 9 ∧ 9 ≤ reading.now ∧
      ¬(9 + (escalating 9 3).refresh / 2 ≤ reading.now ∨ (4 ≤ (escalating 9 3).commandsSinceLook ∧ 9 ≤ reading.now))) ∧
    (∀ a due, (escalating 8 0).refreshDue.get a = some due → 8 < due ∨ (8 = due ∧ 4 ≤ a)) ∧
    -- after a dark LOOK the front's AIM is not kept waiting
    ((∃ h, ({ escalating 8 0 with afterDark := some 40 } : Line).afterDark = some h ∧ (.aim 40 : Command) = .aim h) ∧
      ¬∃ h, (escalating 8 0).afterDark = some h) ∧
    -- eight frames since the last POLL, the period elapsed, and a poll-wanted head
    (({ queued [.aim 40] with lastPoll := 0, framesSincePoll := 8 } : Line).lastPoll + line.poll ≤ reading.now ∧
      line.addrMap.get (line.pollPos + 1 + 4) = some 40 ∧ unsettled.avail = .active ∧ unsettled.settled = false ∧
      ∀ n : Fin 32, n < 4 → line.addrMap.get (line.pollPos + 1 + n) = none) ∧
    -- what does not apply
    ((head .lost).avail ≠ .active ∧ (head .lost).avail ≠ .fault ∧ (head .active).avail.awaitsIdent = false ∧
      (head .active).move = none ∧ (queued [.aim 40]).waiting = []) := by
  refine ⟨by decide +kernel, by decide +kernel, by decide +kernel, fun a d h => ?_, ⟨⟨40, rfl, rfl⟩, ?_⟩,
    by decide +kernel, by decide +kernel⟩
  · exact of_decide_eq_true
      (test_everyDue (escalating 8 0) (fun a d => decide (8 < d ∨ (8 = d ∧ 4 ≤ a))) (by decide +kernel) a d h)
  · rintro ⟨h, e⟩
    cases e

theorem test_meets_LineTimersExpire :
    (({ line with state := .backoff, timer := some 20 } : Line).state = .backoff ∧ 20 ≤ reading.now ∧ reading.now < 21) ∧
    ({ line with state := .jammed, timer := some 20 } : Line).state = .jammed ∧ line.state ≠ .backoff ∧
    line.state ≠ .jammed ∧ line.timer = none ∧ line.quietAt = none ∧
    ({ exchange .poll none with phase := .retransmit } : Exchange).phase = .retransmit ∧
    (exchange .poll none).kind = .poll ∧ (exchange .aim none).kind ≠ .poll ∧ (waitingLine .idle).quietAt ≠ none ∧
    (working (.latch 3 none [])).work = .latch 3 none [] ∧ line.addrMap.get 4 = some 40 ∧
    (∀ a, line.addrMap.get a ≠ some 41) := by decide +kernel

theorem test_meets_CollisionFound : line.work.checked = false ∧ look.checked = true ∧ sent.checked = true ∧
    (Work.latch 3 (some true) []).checked = true ∧ (working look).state = .running ∧
    ({ working look with run := 6 } : Line).run < 7 ∧ 7 ≤ ({ working look with run := 7 } : Line).run ∧
    (∃ k, look = .look k) ∧ (∃ e, sent = .exchange e) ∧ line.addrMap.get 4 = some 40 ∧ (∀ a, line.addrMap.get a ≠ some 41) ∧
    ({ working look with state := .disabled } : Line).state = .disabled ∧
    ({ exchange .poll none with stopped := true, phase := .transmitting true } : Exchange).stopped = true :=
  ⟨rfl, rfl, rfl, rfl, rfl, by decide +kernel, by decide +kernel, ⟨_, rfl⟩, ⟨_, rfl⟩, by decide +kernel, by decide +kernel,
    rfl, rfl⟩

theorem test_meets_FramesComplete : (∃ k, (working look).work = .look k) ∧ (∀ k, line.work ≠ .look k) ∧
    (working (.latch 3 (some true) [])).work = .latch 3 (some true) [] ∧ (∀ n e f, line.work ≠ .latch n (some e) f) ∧
    (∃ m, stagedHead.move = some m ∧ m.state = .staged ∧ m.latch = some 3) ∧ line.addrMap.get 4 = some 40 ∧
    (∀ m, (head .active).move = some m → m.state ≠ .staged) ∧
    (∃ e c, (working sent).work = .exchange e ∧ e.phase = .transmitting c) ∧
    (∀ e c, line.work = .exchange e → e.phase ≠ .transmitting c) := by
  refine ⟨⟨_, rfl⟩, fun k h => ?_, rfl, fun n e f h => ?_, ⟨_, rfl, rfl, rfl⟩, by decide +kernel, fun m h => ?_,
    ⟨_, _, rfl, rfl⟩, fun e c h => ?_⟩ <;> cases h

/-- Exchanges with the attempts made. -/
def attempted (k : ExKind) (n : Nat) : Exchange := { exchange k (some ⟨⟨100, 200⟩, 9, false⟩) with attempts := n }

theorem test_meets_ReplyWindowCloses :
    (working (.exchange (attempted .aim 3))).work = .exchange (attempted .aim 3) ∧
    (attempted .aim 3).phase = .window 20400 ∧ 20400 ≤ ({ reading with micros := 20400 } : State).micros ∧
    (∀ e c, line.work = .exchange e → e.phase = .window c → reading.micros < c) ∧
    ((attempted .aim 3).orphaned = false ∧ (head .active).avail = .active ∧ 5 ≤ ({ head .active with missRun := 5 } : Head).missRun) ∧
    ¬(5 ≤ ({ head .active with missRun := 4 } : Head).missRun) ∧
    ((attempted .aim 2).stopped = false ∧ (attempted .aim 2).attempts < 3) ∧
    ((attempted .aim 3).kind = .aim ∧ (attempted .aim 3).aim = some ⟨⟨100, 200⟩, 9, false⟩ ∧ 3 ≤ (attempted .aim 3).attempts) ∧
    ((move .onWire).state = .onWire ∧ (move .onWire).leg.seq = some 9) := by
  refine ⟨rfl, rfl, by decide +kernel, fun e c h => ?_, by decide +kernel, by decide +kernel, by decide +kernel,
    by decide +kernel, by decide +kernel⟩
  cases h

/-- The close of a reply window on an exchange with head 40 as it is, while slot 3 has one move outstanding. -/
def missed (u : Head) (e : Exchange) (p : State → Bool) : Bool :=
  did (.replyWindowClose 2) (withHead 40 u { movingState .onWire e with micros := 20400 }) p

/-- Moves counted FAILED in slot 3. -/
def countedFailed (t : State) : Bool := (t.rig.slots.get 3).map Running.counts == some ⟨0, 0, 0, 0, 0, 1⟩

/-- Attempts without a reply: entry into LOST with and without a move, exhaustion of an AIM and of an IDENT, an exchange
stopped, and one whose head was unpatched (R9, R14, R73, R102). -/
theorem test_meets_attemptMissed :
    (moving .onWire).awaits (attempted .aim 3) ∧ ¬(head .active).awaits (attempted .aim 3) ∧
    (∀ a, (waitingLine .idle).addrMap.get a = some 40 ↔ a = binding.address) ∧
    missed { moving .onWire with missRun := 5 } (attempted .aim 1) (fun t =>
      (t.rig.heads.get 40).avail == .lost && (t.rig.heads.get 40).lastOutcome == some .lost && countedFailed t &&
      (t.rig.heads.get 40).identTimer == some 1020 && (t.rig.lines.get 2).queue == []) = true ∧
    missed { head .active with missRun := 5 } (attempted .poll 1) (fun t =>
      (t.rig.heads.get 40).avail == .lost && (t.rig.heads.get 40).lastOutcome.isNone &&
      (t.rig.lines.get 2).work == .latch 3 (some true) (latchFrame 3)) = true ∧
    missed (moving .onWire) (attempted .aim 3) (fun t => (t.rig.heads.get 40).lastOutcome == some .failed && countedFailed t &&
      (t.rig.heads.get 40).avail == .active && (t.rig.heads.get 40).missRun == 1) = true ∧
    missed (head .identifying) (attempted .ident 3) (fun t => (t.rig.heads.get 40).identTimer == some 1020) = true ∧
    missed (head .identifying) (attempted .ident 2) (fun t => (t.rig.heads.get 40).identTimer.isNone) = true ∧
    missed (moving .onWire) { attempted .aim 1 with stopped := true } (fun t =>
      (t.rig.heads.get 40).move.isSome && !countedFailed t) = true ∧
    missed (head .active) { attempted .aim 1 with stopped := true, orphaned := true } (fun t =>
      (t.rig.heads.get 40).missTotal == ⟨0, false⟩) = true := by
  unfold Head.awaits
  refine ⟨⟨rfl, _, rfl, _, rfl, rfl, rfl⟩, ?_, by decide +kernel, by decide +kernel, by decide +kernel, by decide +kernel,
    by decide +kernel, by decide +kernel, by decide +kernel, by decide +kernel⟩
  rintro ⟨-, a, -, m, h, -⟩
  cases h

/-- A reply that answers an exchange of head address 5 with sequence 9. -/
def answers (f : List Byte) (b : ReplyBody) : Prop :=
  ∃ p, decodeReply f = some p ∧ p.address = (exchange .poll none).address.val + 1 ∧ p.body = b ∧
    p.seq = (exchange .poll none).seq

/-- A break at the first and the last µs of a window, and just outside it. -/
theorem test_meets_window : (20400 ≤ (heard []).began + 400 ∧ (heard []).began ≤ 20400) ∧
    (20400 ≤ (⟨20400, [], none⟩ : Reception).began + 400 ∧ (⟨20400, [], none⟩ : Reception).began ≤ 20400) ∧
    ¬(20400 ≤ (⟨19999, [], none⟩ : Reception).began + 400) ∧ ¬((⟨20401, [], none⟩ : Reception).began ≤ 20400) ∧
    line.awaitsQuiet = false ∧ (heard []).cut = none := by decide

/-- A TOGETHER cue whose last move is about to be staged, and one already LATCHED. -/
def lastOne : Running := { gathering with gathering := ⟨.gathering, 1, some 20, upd (Vector.replicate 16 false) 3 true⟩ }
def latched : Running := { gathering with gathering := ⟨.latched, 0, none, Vector.replicate 16 false⟩ }

theorem test_meets_AcceptReceived_staged : lastOne.gathering.state = .gathering ∧ lastOne.gathering.count = 1 ∧
    0 < lastOne.outstanding ∧ lastOne.gathering.lines.get 3 = true ∧ latched.gathering.state = .latched ∧
    0 < latched.outstanding ∧ (∀ j, (aimed.rig.lines.get j).queue.length < 48) ∧ line.state.inService = true ∧
    ({ move .onWire with staged := true, latch := some 3 } : Move).latch = some 3 ∧
    (exchange .aim (some ⟨⟨100, 200⟩, 9, true⟩)).aim = some ⟨⟨100, 200⟩, 9, true⟩ ∧
    (withSlot 3 lastOne aimed).rig.slots.get 3 = some lastOne ∧ (withSlot 3 latched aimed).rig.slots.get 3 = some latched ∧
    ((withLine 3 { line with quietAt := some 20040 } aimed).rig.lines.get 3).still := by
  refine ⟨rfl, rfl, by decide +kernel, by decide +kernel, rfl, by decide +kernel, by decide +kernel, rfl, rfl, rfl,
    by decide +kernel, by decide +kernel, ?_⟩
  unfold Line.still; decide +kernel

/-- A stale ACCEPT: the exchange's AIM is not the current move's, or there is no move; and a LOST head that answers. -/
theorem test_meets_AcceptReceived_stale :
    (∀ m, (moving .travelling).move = some m → m.state ≠ .onWire ∨ m.leg.seq ≠ some 9) ∧
    (∀ m, (head .active).move = some m → m.state ≠ .onWire ∨ m.leg.seq ≠ some 9) ∧
    (head .lost).avail = .lost ∧ (head .lost).binding = some binding ∧ binding.line = 2 ∧
    (exchange .clear none).kind = .clear ∧ (head .fault).avail = .fault := by
  refine ⟨fun m h => .inl ?_, fun m h => ?_, rfl, rfl, rfl, rfl, rfl⟩
  · cases h
    decide
  · cases h

theorem test_meets_AcceptReceived : answers (reply 0x81 (be32 60)) (.accept 60) ∧
    (∀ k, (exchange k none).phase = .window 20400 ∧ (exchange k none).orphaned = false) ∧
    (∃ m, (aimed.rig.heads.get 40).move = some m ∧ m.state = .onWire ∧ m.leg.seq = some 9) ∧
    ((aimed.rig.heads.get 40).avail = .active ∧ aimed.othersStill 2) ∧
    ({ gathering with gathering := ⟨.gathering, 2, none, Vector.replicate 16 false⟩ } : Running).gathering.state = .gathering ∧
    2 ≤ gathering.gathering.count ∧ 0 < gathering.outstanding ∧ profile.lamp = .discharge ∧
    ((rigged .fault line reading).rig.heads.get 40).binding = some binding ∧
    (rigged .fault line reading).rig.profiles.get binding.profile = some profile ∧
    (∀ p n, decodeReply (reply 0x82 [1]) = some p → p.body ≠ .accept n) := by
  refine ⟨⟨⟨5, 9, .accept 60⟩, by decide +kernel⟩, fun k => ⟨rfl, rfl⟩, ⟨move .onWire, by decide +kernel⟩,
    ⟨by decide +kernel, by unfold State.othersStill; decide +kernel⟩, by decide +kernel, by decide +kernel, by decide +kernel,
    rfl, by decide +kernel, by decide +kernel, fun p n h => ?_⟩
  have : decodeReply (reply 0x82 [1]) = some ⟨5, 9, .refuse .range⟩ := by decide +kernel
  rw [this] at h
  cases h
  simp

theorem test_meets_RefuseReceived : answers (reply 0x82 [2]) (.refuse .motor) ∧ answers (reply 0x82 [9]) (.refuse .range) ∧
    answers (reply 0x82 [3]) (.refuse .lamp) ∧ (exchange .strike none).kind = .strike ∧
    (∃ m, (aimed.rig.heads.get 40).move = some m ∧ m.state = .onWire ∧ m.leg.seq = some 9) ∧
    (∀ m, (head .active).move = some m → m.state ≠ .onWire) ∧ (head .fault).avail = .fault := by
  refine ⟨⟨⟨5, 9, .refuse .motor⟩, by decide +kernel⟩, ⟨⟨5, 9, .refuse .range⟩, by decide +kernel⟩,
    ⟨⟨5, 9, .refuse .lamp⟩, by decide +kernel⟩, rfl, ⟨move .onWire, by decide +kernel⟩, fun m h => ?_, rfl⟩
  cases h

/-- An ACCEPT and a REFUSE with another echo, to an AIM with attempts left and with none; one to a command that takes no
ACCEPT; and a REFUSE of a CLEAR. -/
theorem test_meets_goodAlone :
    (∃ p, decodeReply (frameBytes 5 0x81 8 (be32 60)) = some p ∧ p.body = .accept 60 ∧ p.address = 5 ∧
      p.seq ≠ (attempted .aim 1).seq) ∧
    (∃ p, decodeReply (frameBytes 5 0x82 8 [1]) = some p ∧ p.body = .refuse .range ∧ p.seq ≠ (attempted .aim 1).seq) ∧
    did (.accept 2 (heard (frameBytes 5 0x81 8 (be32 60)))) (movingState .onWire (attempted .aim 1)) (fun t =>
      (t.rig.lines.get 2).work == .exchange { attempted .aim 1 with phase := .nextAttempt } &&
      (t.rig.lines.get 2).misses == ⟨0, false⟩) = true ∧
    did (.refuse 2 (heard (frameBytes 5 0x82 8 [1])))
      (withHead 40 (moving .onWire) (movingState .onWire (attempted .aim 3))) (fun t =>
      (t.rig.heads.get 40).lastOutcome == some .failed && countedFailed t && (t.rig.lines.get 2).work == .idle) = true ∧
    did (.accept 2 (heard (reply 0x81 (be32 60)))) (withHead 40 (head .identifying) (movingState .onWire (attempted .ident 1)))
      (fun t => (t.rig.heads.get 40).identTimer == some 1020 && (t.rig.lines.get 2).work == .idle) = true ∧
    did (.refuse 2 (heard (reply 0x82 [1]))) (withHead 40 (head .fault) (movingState .onWire (attempted .clear 1)))
      (fun t => (t.rig.heads.get 40).avail == .fault && (t.rig.lines.get 2).work == .idle) = true ∧
    did (.refuse 2 (heard (reply 0x82 [1]))) (withHead 40 (head .lost) (movingState .onWire (attempted .poll 1)))
      (fun t => (t.rig.heads.get 40).avail == .identifying) = true := by
  refine ⟨⟨⟨5, 8, .accept 60⟩, by decide +kernel⟩, ⟨⟨5, 8, .refuse .range⟩, by decide +kernel⟩, by decide +kernel⟩

/-- A move that a head refuses: TRANSIT goes from a settled head, and the move is counted REFUSED (R68, R72). -/
theorem test_headRefused : did (.refuse 2 (heard (reply 0x82 [1])))
    (withHead 40 { moving .onWire with settled := true, guard := { Guard.none with transit := true } }
      (movingState .onWire (attempted .aim 1))) (fun t =>
    !(t.rig.heads.get 40).guard.transit && (t.rig.heads.get 40).settled &&
    (t.rig.slots.get 3).map Running.counts == some ⟨0, 0, 0, 1, 0, 0⟩) = true := by decide +kernel

/-- A move of two legs, TRAVELLING its first. -/
def twoLegs : Move := { move .travelling with leg2 := some ⟨⟨300, 400⟩, 50, none⟩ }

theorem test_meets_StatusReceived : answers (reply 0x83 [3, 9, 0]) (.status ⟨true, true, 9, .none⟩) ∧
    answers (reply 0x83 [0, 0, 4]) (.status ⟨false, false, 0, .overheat⟩) ∧
    (exchange .poll none).kind = .poll ∧ (head .active).accepted = some ⟨⟨0, 0⟩, some 9⟩ ∧
    ((move .travelling).state = .travelling ∧ (move .travelling).leg.seq = some 9 ∧ (move .travelling).leg2 = none) ∧
    (twoLegs.current = .first ∧ twoLegs.leg2 ≠ none) ∧ (move .planned).state ≠ .travelling ∧
    ((exchange .strike none).kind ≠ .poll ∧ (exchange .strike none).kind ≠ .ident ∧ (exchange .strike none).stopped = false ∧
      (exchange .strike none).attempts < 3) ∧
    (rigged .active line reading).othersStill 2 :=
  ⟨⟨⟨5, 9, .status ⟨true, true, 9, .none⟩⟩, by decide +kernel⟩,
    ⟨⟨5, 9, .status ⟨false, false, 0, .overheat⟩⟩, by decide +kernel⟩, rfl, rfl, by decide +kernel, by decide +kernel,
    by decide +kernel, by decide +kernel, by unfold State.othersStill; decide +kernel⟩

/-- A DESCRIPTOR frame with a model code, at (300, 400) and at rest. -/
def descriptor (model : Nat) : List Byte :=
  reply 0x84 (be32 model ++ be16 0 ++ be16 300 ++ be16 400 ++ [1] ++ be16 0)

theorem test_meets_DescriptorReceived :
    answers (descriptor 0xABCD) (.descriptor ⟨0xABCD, ⟨300, 400⟩, true, false, 0⟩) ∧
    answers (descriptor 1) (.descriptor ⟨1, ⟨300, 400⟩, true, false, 0⟩) ∧
    (exchange .ident none).kind = .ident ∧ (head .identifying).avail = .identifying ∧ (head .mismatch).avail = .mismatch ∧
    (head .identifying).binding = some binding ∧ profile.model = 0xABCD ∧ (1 : BitVec 32) ≠ profile.model ∧
    (head .identifying).move = none ∧ profile.lamp = .discharge ∧ (head .identifying).livePos = none ∧
    (head .identifying).showPos = none ∧
    -- only an ACTIVE head holds a move
    ((head .mismatch).move.isSome = true → (head .mismatch).avail = .active) ∧
    ((moving .planned).move.isSome = true → (moving .planned).avail = .active) ∧
    held.livePos.or held.showPos = some ⟨⟨50, 50⟩, 0, 1⟩ ∧ binding.heldPoint ⟨50, 50⟩ ≠ ⟨300, 400⟩ ∧
    binding.heldPoint ⟨300, 400⟩ = ⟨300, 400⟩ :=
  ⟨⟨⟨5, 9, .descriptor ⟨0xABCD, ⟨300, 400⟩, true, false, 0⟩⟩, by decide +kernel⟩,
    ⟨⟨5, 9, .descriptor ⟨1, ⟨300, 400⟩, true, false, 0⟩⟩, by decide +kernel⟩, by decide +kernel⟩

/-- What a reception may end with: its last byte, good and bad; a length above 16 and one of 16; each cut. -/
theorem test_meets_BadReplyAndStrayFrame_cut :
    (4 ≤ (heard [5, 0x81, 9, 17]).bytes.length ∧ 16 < rd8 (heard [5, 0x81, 9, 17]).bytes 3) ∧
    ¬(4 ≤ (heard [5, 0x81, 9, 16]).bytes.length ∧ 16 < rd8 (heard [5, 0x81, 9, 16]).bytes 3) ∧
    ¬(4 ≤ (heard [5, 0x81, 9]).bytes.length) ∧ (cutOff .quiet []).cut = some .quiet ∧
    (cutOff .stopBit []).cut = some .stopBit ∧ ((cutOff .newBreak []).cut ≠ some .stopBit ∧ (cutOff .newBreak []).cut ≠ some .quiet) ∧
    ({ line with awaitsQuiet := true } : Line).awaitsQuiet = true ∧
    (∀ p, decodeReply (reply 0x85 []) = some p → p.address ≠ (exchange .poll none).address.val + 1) := by
  refine ⟨by decide +kernel, by decide +kernel, by decide +kernel, rfl, rfl, by decide +kernel, rfl, fun p h => ?_⟩
  have : decodeReply (reply 0x85 []) = none := by decide +kernel
  rw [this] at h
  cases h

/-- A reply of any kind to an exchange whose head was unpatched ends it and reaches no head (R104, R106). -/
theorem test_meets_answeredToNone :
    let e := { attempted .poll 1 with stopped := true, orphaned := true }
    let s := rigged .active { working (.exchange e) with awaitsQuiet := false } reading
    (e.orphaned = true ∧ e.stopped = true) ∧
    [Instr.accept 2 (heard (reply 0x81 (be32 60))), .refuse 2 (heard (reply 0x82 [2])), .status 2 (heard (reply 0x83 [3, 9, 4])),
      .descriptor 2 (heard (descriptor 0xABCD))].all (fun c => did c s fun t =>
        t.rig.heads.get 40 == head .active && t.rig.lines.get 2 == { line with quietAt := some 20040 }) = true := by
  decide +kernel

/-- Head 40 with a move, dark by TRANSIT alone, its refresh due at 30 ms, during an exchange. -/
def transitOnly (m : MoveState) (rests : Bool) (e : Exchange) : State :=
  withHead 40 { moving m with settled := rests, guard := { Guard.none with transit := true } }
    (withSlot 3 slot (rigged .active { busyDue 30 with work := .exchange e } reading))

/-- A DARKEN sector over the point where head 40 is. -/
def darkenedHere (s : State) : State :=
  { s with rig := { s.rig with
    sectors := upd s.rig.sectors 5 (some ⟨true, ⟨-10, 10, -10, 10⟩, .darken, [(40, 40)]⟩)
    members := upd s.rig.members 40 [5] } }

/-- FAULT by a REFUSE (MOTOR), PARKED by a settlement, enter a set that TRANSIT leaves empty: the refresh is due at once
(R29, R68, R72, R76, R97). -/
theorem test_meets_emptied :
    Head.emptied { head .active with guard := { Guard.none with transit := true } }
      { head .fault with guard := { Guard.none with fault := true } } ∧
    did (.refuse 2 (heard (reply 0x82 [2]))) (transitOnly .onWire true (attempted .aim 1)) (fun t =>
      (t.rig.heads.get 40).guard == { Guard.none with fault := true } && dueIs (some 20) t) = true ∧
    did (.status 2 (heard (reply 0x83 [3, 9, 0])))
      (darkenedHere (transitOnly .travelling false (attempted .poll 1))) (fun t =>
      (t.rig.heads.get 40).guard == { Guard.none with parked := true } && dueIs (some 20) t) = true := by
  exact ⟨⟨rfl, rfl⟩, by decide +kernel, by decide +kernel⟩

theorem test_meets_BadReplyAndStrayFrame :
    (∃ p, decodeReply (reply 0x82 [1]) = some p ∧ p.address = (exchange .poll none).address.val + 1) ∧
    (∀ p, decodeReply [1, 2, 3] = some p → p.address ≠ (exchange .poll none).address.val + 1) ∧
    (exchange .poll none).phase = .window 20400 ∧ line.work.transmitting = false ∧ look.transmitting = true ∧
    (∀ e c, line.work = .exchange e → e.phase ≠ .window c) ∧ line.cutWindow = none ∧
    (({ line with cutWindow := some 20000 } : Line).cutWindow = some 20000 ∧ 20000 ≤ 20000) := by
  refine ⟨⟨⟨5, 9, .refuse .range⟩, by decide +kernel⟩, fun p h => ?_, rfl, rfl, rfl, fun e c h => ?_, rfl, rfl, le_rfl⟩
  · have : decodeReply [1, 2, 3] = none := by decide +kernel
    rw [this] at h
    cases h
  · cases h

/-! ### Rules and invariants -/

theorem test_meets_RangeCheck : 0 < profile.panSpeed ∧ 0 < profile.tiltSpeed ∧
    (profile.panMin ≤ 27000 ∧ 27000 ≤ profile.panMax ∧ profile.tiltMin ≤ -12000 ∧ -12000 ≤ profile.tiltMax) ∧
    ¬(27001 ≤ profile.panMax) ∧
    verdict sectors binding ⟨-4000, -4000, -500, -500⟩ ⟨7000, 0⟩ = .path ∧
    verdict sectors binding ⟨-4000, -4000, -500, -500⟩ ⟨3000, -800⟩ = .direct true ∧
    verdict sectors binding ⟨-4000, -4000, -500, -500⟩ ⟨11000, 3000⟩ = .detour ⟨4000, 2500⟩ true ∧
    -- a waypoint the profile reaches, and one a narrower profile does not
    (4000 ≤ profile.panMax ∧ 2500 ≤ profile.tiltMax) ∧ ¬(4000 ≤ ({ profile with panMax := 3999 } : Profile).panMax) := by
  decide +kernel

/-- The second sector of the example is the lowest DETOUR sector the direct box overlaps. -/
theorem test_meets_DirectVerdict_detour : ∃ before x after,
    sectors = before ++ x :: after ∧ x.policy = .detour ⟨4000, 2500⟩ ∧
    x.box.overlaps ((⟨-4000, -4000, -500, -500⟩ : Box).cover (⟨11000, 3000⟩ : Point).box) = true ∧
    before.all (fun y => y.policy == .darken) = true ∧
    sectors.all (fun y => !y.policy.waypoint.isSome || !y.box.inside ⟨11000, 3000⟩) = true ∧
    sectors.all (fun y => y.policy != .refuse ||
      !y.box.overlaps ((⟨-4000, -4000, -500, -500⟩ : Box).cover (⟨11000, 3000⟩ : Point).box)) = true ∧
    sectors.all (fun y => y.policy == .darken ||
      !(y.box.overlaps ((⟨-4000, -4000, -500, -500⟩ : Box).cover (binding.heldPoint ⟨4000, 2500⟩).box) ||
        y.box.overlaps ((binding.heldPoint ⟨4000, 2500⟩).box.cover (⟨11000, 3000⟩ : Point).box))) = true :=
  ⟨[_], _, [_], rfl, rfl, by decide +kernel⟩

theorem test_meets_DirectVerdict : verdict [] binding ⟨0, 0, 0, 0⟩ ⟨100, 100⟩ ≠ .path ∧
    verdict sectors binding ⟨-4000, -4000, -500, -500⟩ ⟨3000, -800⟩ ≠ .path ∧
    (∀ x ∈ sectors, x.box.overlaps ((⟨-4000, -4000, -500, -500⟩ : Box).cover (⟨3000, -800⟩ : Point).box) = true →
      ∀ w, x.policy ≠ .detour w) := by
  refine ⟨by decide +kernel, by decide +kernel, fun x hx ho w => ?_⟩
  simp only [sectors, List.mem_cons, List.not_mem_nil, or_false] at hx
  rcases hx with rfl | rfl | rfl
  · simp
  · exact absurd ho (by decide +kernel)
  · simp

/-- Boxes in order with a point in both, at their corners, and two apart. -/
theorem test_meets_DirectVerdict_boxes :
    ((⟨0, 10, 0, 10⟩ : Box).overlaps ⟨10, 20, 10, 20⟩ = true ∧ (⟨0, 10, 0, 10⟩ : Box).inside ⟨10, 10⟩ = true ∧
      (⟨10, 20, 10, 20⟩ : Box).inside ⟨10, 10⟩ = true) ∧
    (⟨0, 10, 0, 10⟩ : Box).overlaps ⟨11, 20, 0, 10⟩ = false ∧ (⟨0, 10, 0, 10⟩ : Box).inside ⟨10, 11⟩ = false := by
  decide +kernel

/-- Fades that run and have run, the layers' cases, and the wire order of components. -/
theorem test_meets_FadeEvaluated :
    (20 - 0 < 100 ∧ 20 ≤ 20 - 0 ∧ (ColourCell.mk #v[9, 0, 0, 0, 0, 0] ⟨Colour.zero, 0, 0⟩ 1).fade.duration = 0) ∧
    lit.liveCol.isSome = true ∧ lit.liveBeam.isSome = true ∧
    (({ head .active with colRelease := some ⟨Colour.zero, 0, 100⟩, beamRelease := some ⟨9, 0, 100⟩ } : Head).liveCol = none) ∧
    (head .active).liveCol = none ∧ (head .active).colRelease = none ∧ (head .active).liveBeam = none ∧
    (head .active).beamRelease = none ∧
    ([0, 1, 2] : List (Fin 6)).map (fun j => (profile.components[j.val]?).map Component.wire) =
      (List.range profile.components.length).map some ∧
    ([1, 3, 0, 2] : List (Fin 6)).map (fun j =>
      (([⟨2, 16, 0⟩, ⟨0, 8, 0⟩, ⟨3, 8, 4⟩, ⟨1, 16, 16⟩] : List Component)[j.val]?).map Component.wire) =
      (List.range 4).map some ∧
    -- entries of a CUE's reads
    (1 < (zeros 64).length / 32 ∧ ¬(2 < (zeros 64).length / 32)) := by decide +kernel

/-- The invariants are met by the state of reset, whose step is a next state. -/
theorem test_meets_Invariants : State.reset.settingsInRange ∧ State.reset.cuesInOrder ∧ State.reset.listFits ∧
    State.reset.queuesFit ∧ ∃ t, step State.reset = .next t := by
  refine ⟨?_, ?_, ?_, ?_, _, rfl⟩
  · unfold State.settingsInRange; decide +kernel
  · unfold State.cuesInOrder; decide +kernel
  · unfold State.listFits; decide +kernel
  · unfold State.queuesFit; decide +kernel

theorem test_reset_heads (h : HeadIx) : State.reset.rig.heads.get h = Head.unpatched := by
  simp [State.reset, Rig.reset, Vector.get]
theorem test_reset_lines (l : LineIx) : State.reset.rig.lines.get l = Line.reset := by
  simp [State.reset, Rig.reset, Vector.get]
theorem test_reset_map (a : AddrIx) : Line.reset.addrMap.get a = none := by simp [Line.reset, Vector.get]

theorem test_meets_membersSound : State.reset.rig.membersSound := by
  intro h
  have m : State.reset.rig.members.get h = [] := by simp [State.reset, Rig.reset, Vector.get]
  have z : ∀ k, State.reset.rig.sectors.get k = none := fun k => by simp [State.reset, Rig.reset, Vector.get]
  rw [m]
  simp [z]

theorem test_meets_linesSound : State.reset.rig.linesSound := by
  refine ⟨⟨fun l a h => ?_, fun h => ?_⟩, ⟨fun h m => ?_, fun h b e => ?_⟩, fun l => ?_⟩
  · simp [test_reset_lines, test_reset_map, test_reset_heads, Head.unpatched]
  · simp [test_reset_heads, Head.unpatched]
  · simp [test_reset_heads, Head.unpatched] at m
  · simp [test_reset_heads, Head.unpatched] at e
  · rw [test_reset_lines]
    refine ⟨by simp [Line.reset], by simp [Line.reset, latchesIn], fun a h k e => ?_, fun a e => ?_, fun e => ?_⟩
    · simp [test_reset_map] at e
    · simp [Line.reset, Vector.get]
    · rcases e with ⟨a, e⟩ | e
      · simp [Line.reset, Vector.get] at e
      · simp [Line.reset] at e

theorem test_meets_slotsSound : State.reset.slotsSound := by
  have z : ∀ k, State.reset.rig.slots.get k = none := fun k => by simp [State.reset, Rig.reset, Vector.get]
  refine ⟨fun k => ?_, by decide, fun k e => ?_, fun e => ?_, fun _ => rfl, fun u e => ?_⟩
  · simp [z, Rig.movesOf, test_reset_heads, Head.unpatched]
  · cases e
  · cases e
  · rcases e with ⟨_, _, e | e⟩ | e | e <;> cases e

/-- The tables agree and the slots count at reset, from where a step leads on. -/
theorem test_meets_ListStaysInSize : State.reset.rig.linesSound ∧ State.reset.slotsSound ∧ ∃ t, step State.reset = .next t :=
  ⟨test_meets_linesSound, test_meets_slotsSound, _, rfl⟩

end Sys2Proof.Tests
end

section
/-! SUPPORT. Fades, outputs and frames: what a fade evaluated is (R26), which cell or transition gives an output (R27, R28,
R30), the CRC taken bit by bit (R114), the bytes of a frame (11.6, R118) and a LOOK's components in wire-slot order (R6);
with them the statement on fades and frames is settled. -/

namespace Sys2Proof.Machine

/-! ### A fade evaluated (R26) -/

/-- What R26 says of a fade's value: its target once the duration has run, before that the quotient rounded toward zero. -/
def FadeValue (start target begun duration now v : Nat) : Prop :=
  (duration = 0 ∨ duration ≤ now - begun → v = target) ∧
  (now - begun < duration →
    (v : Int) = start + Int.tdiv (((target : Int) - start) * ((now - begun : Nat) : Int)) duration)

/-- A downward fade never passes below 0: the way gone is at most the whole way, and that at most the start. -/
theorem fade_nonneg (start target elapsed duration : Nat) (h : elapsed < duration) :
    0 ≤ (start : Int) + Int.tdiv (((target : Int) - start) * elapsed) duration := by
  rcases Nat.le_total start target with up | down
  · have : 0 ≤ Int.tdiv (((target : Int) - start) * elapsed) duration :=
      Int.tdiv_nonneg (mul_nonneg (by omega) (by omega)) (by omega)
    omega
  · have gone : (start - target) * elapsed / duration ≤ start - target :=
      Nat.div_le_of_le_mul (by rw [Nat.mul_comm]; exact Nat.mul_le_mul_right _ h.le)
    have turned : ((target : Int) - start) * elapsed = -(((start - target) * elapsed : Nat) : Int) := by
      push_cast [down]
      ring
    rw [turned, Int.neg_tdiv, ← Int.ofNat_tdiv]
    omega

theorem fadeAt_value (start target begun duration now : Nat) :
    FadeValue start target begun duration now (fadeAt start target begun duration now) := by
  refine ⟨fun ended => ?_, fun running => ?_⟩
  · exact if_pos (by omega)
  · have elapsed : min (now - begun) duration = now - begun := by omega
    have h : ¬(duration = 0 ∨ now - begun = duration) := by omega
    simp only [fadeAt, elapsed, if_neg h]
    exact Int.toNat_of_nonneg (fade_nonneg _ _ _ _ running)

@[simp] theorem ColourFade.toward_get (f : ColourFade) (target : Colour) (now : Nat) (k : Fin 6) :
    (f.toward target now).get k = fadeAt (f.start.get k) (target.get k) f.begun f.duration now := by
  simp [ColourFade.toward]

/-! ### Outputs (R27, R28, R30) -/

section Outputs
variable {u : Head} {now : Nat}

theorem Head.showColour_get (k : Fin 6) :
    (u.showColour now).get k = match u.showCol with | some z => (z.value now).get k | none => 0 := by
  unfold Head.showColour
  cases u.showCol with
  | some z => rfl
  | none => exact replicate_get 0 k

theorem Head.colourOutput_live {z : ColourCell} (h : u.liveCol = some z) : u.colourOutput now = z.value now := by
  simp [Head.colourOutput, h]

theorem Head.colourOutput_release {g : ColourFade} (h : u.liveCol = none) (hr : u.colRelease = some g) :
    u.colourOutput now = g.toward (u.showColour now) now := by
  simp [Head.colourOutput, h, hr]

theorem Head.colourOutput_show (h : u.liveCol = none) (hr : u.colRelease = none) :
    u.colourOutput now = u.showColour now := by
  simp [Head.colourOutput, h, hr]

theorem Head.beamOutput_live {z : BeamCell} (h : u.liveBeam = some z) :
    u.beamOutput now = max (z.value now) (u.showBeamValue now) := by
  simp [Head.beamOutput, h]

theorem Head.beamOutput_release {g : BeamFade} (h : u.liveBeam = none) (hr : u.beamRelease = some g) :
    u.beamOutput now = g.toward (u.showBeamValue now) now := by
  simp [Head.beamOutput, h, hr]

theorem Head.beamOutput_show (h : u.liveBeam = none) (hr : u.beamRelease = none) :
    u.beamOutput now = u.showBeamValue now := by
  simp [Head.beamOutput, h, hr]

end Outputs

/-! ### The CRC bit by bit (R114) -/

/-- One bit of a frame into the CRC's register. -/
def crcBit (c : BitVec 16) (bit : Bool) : BitVec 16 :=
  if c.msb = bit then c <<< 1 else (c <<< 1) ^^^ 0x1021#16

/-- The bits of a byte, most significant first. -/
def bitsOf (y : Byte) : List Bool :=
  [y.getLsbD 7, y.getLsbD 6, y.getLsbD 5, y.getLsbD 4, y.getLsbD 3, y.getLsbD 2, y.getLsbD 1, y.getLsbD 0]

/-- A byte in the upper half of the CRC's register. -/
def upperHalf (b : Byte) : BitVec 16 := b.setWidth 16 <<< 8

theorem upperHalf_msb (b : Byte) : (upperHalf b).msb = b.msb := by
  simp [upperHalf, BitVec.msb_eq_getLsbD_last]

theorem upperHalf_shiftLeft (b : Byte) : upperHalf b <<< 1 = upperHalf (b <<< 1) := by
  ext i hi
  simp only [upperHalf, BitVec.getElem_shiftLeft]
  grind

/-- With the bits still to come in the upper half, a shift of the register takes the first of them in. -/
theorem crcShift_upperHalf (c : BitVec 16) (b : Byte) :
    crcShift (c ^^^ upperHalf b) = crcBit c b.msb ^^^ upperHalf (b <<< 1) := by
  have shifted : (c ^^^ upperHalf b) <<< 1 = c <<< 1 ^^^ upperHalf (b <<< 1) := by
    rw [BitVec.shiftLeft_xor_distrib, upperHalf_shiftLeft]
  simp only [crcShift, crcBit, shifted, BitVec.msb_xor, upperHalf_msb]
  cases c.msb <;> cases b.msb <;> simp <;> ac_rfl

/-- After n shifts the first n bits of the byte are taken in and the rest stands n places higher. -/
theorem crcShifts_eq_bits (c : BitVec 16) (b : Byte) (n : Nat) :
    (List.range n).foldl (fun c _ => crcShift c) (c ^^^ upperHalf b) =
      ((List.range n).map fun k => (b <<< k).msb).foldl crcBit c ^^^ upperHalf (b <<< n) := by
  induction n with
  | zero => simp
  | succ n ih => simp [List.range_succ, ih, crcShift_upperHalf, BitVec.shiftLeft_add]

theorem bitsOf_eq (b : Byte) : bitsOf b = (List.range 8).map fun k => (b <<< k).msb := by
  simp [bitsOf, List.range_succ, BitVec.msb_eq_getLsbD_last]

theorem crcByte_eq_bits (c : BitVec 16) (b : Byte) : crcByte c b = (bitsOf b).foldl crcBit c := by
  have spent : upperHalf (b <<< 8) = 0#16 := by simp [upperHalf]
  calc crcByte c b = (List.range 8).foldl (fun c _ => crcShift c) (c ^^^ upperHalf b) := rfl
    _ = (bitsOf b).foldl crcBit c := by rw [crcShifts_eq_bits, ← bitsOf_eq, spent, BitVec.xor_zero]

theorem crc16_eq_bits (b : List Byte) : crc16 b = (b.flatMap bitsOf).foldl crcBit 0xFFFF#16 := by
  rw [List.foldl_flatMap]
  simp only [← crcByte_eq_bits]
  rfl

theorem crc16_check :
    crc16 [0x31#8, 0x32#8, 0x33#8, 0x34#8, 0x35#8, 0x36#8, 0x37#8, 0x38#8, 0x39#8] = 0x29B1#16 := by decide +kernel

/-! ### Bytes read back -/

@[simp] theorem byteOf_toNat (n : Nat) : (byteOf n).toNat = n % 256 := BitVec.toNat_ofNat n 8

@[simp] theorem rd8_cons_zero (y : Byte) (b : List Byte) : rd8 (y :: b) 0 = y.toNat := rfl

@[simp] theorem rd8_cons_succ (y : Byte) (b : List Byte) (i : Nat) : rd8 (y :: b) (i + 1) = rd8 b i := rfl

theorem rd8_append_left {b : List Byte} (d : List Byte) {i : Nat} (h : i < b.length) : rd8 (b ++ d) i = rd8 b i := by
  simp [rd8, List.getElem?_append_left h]

theorem rd8_append_right (b d : List Byte) (i : Nat) : rd8 (b ++ d) (b.length + i) = rd8 d i := by
  simp [rd8, List.getElem?_append_right]

@[simp] theorem be16_length (n : Nat) : (be16 n).length = 2 := rfl

theorem rd8_be16 (n : Nat) (h : n < 65536) : 256 * rd8 (be16 n) 0 + rd8 (be16 n) 1 = n := by
  simp [be16]
  omega

/-! ### Frames (11.6, R118) -/

/-- A frame's bytes around its payload: address, kind, sequence and length before it, the CRC high byte first after it. -/
def SentAs (f : List Byte) (address kind : Nat) (seq : Seq) (length : Nat) : Prop :=
  f.length = length + 6 ∧ rd8 f 0 = address ∧ rd8 f 1 = kind ∧ rd8 f 2 = seq.toNat ∧ rd8 f 3 = length ∧
  256 * rd8 f (length + 4) + rd8 f (length + 5) = (crc16 (f.take (length + 4))).toNat

section Frames
variable {address kind : Nat} {seq : Seq} {payload : List Byte}

/-- A frame before its CRC. -/
def frameBody (address kind : Nat) (seq : Seq) (payload : List Byte) : List Byte :=
  [byteOf address, byteOf kind, seq, byteOf payload.length] ++ payload

theorem frameBytes_eq : frameBytes address kind seq payload =
    frameBody address kind seq payload ++ be16 (crc16 (frameBody address kind seq payload)).toNat := rfl

@[simp] theorem frameBody_length : (frameBody address kind seq payload).length = payload.length + 4 := by
  simp [frameBody]

theorem frameBytes_sentAs (ha : address < 256) (hk : kind < 256) (hp : payload.length < 256) :
    SentAs (frameBytes address kind seq payload) address kind seq payload.length := by
  have body (i : Nat) (h : i < payload.length + 4) :
      rd8 (frameBytes address kind seq payload) i = rd8 (frameBody address kind seq payload) i :=
    rd8_append_left _ (frameBody_length.symm ▸ h)
  have check (i : Nat) : rd8 (frameBytes address kind seq payload) (payload.length + 4 + i) =
      rd8 (be16 (crc16 (frameBody address kind seq payload)).toNat) i := by
    rw [frameBytes_eq, ← frameBody_length (address := address) (kind := kind) (seq := seq), rd8_append_right]
  have taken : (frameBytes address kind seq payload).take (payload.length + 4) = frameBody address kind seq payload :=
    List.take_left' frameBody_length
  refine ⟨by simp [frameBytes_eq], ?_, ?_, ?_, ?_, ?_⟩
  · rw [body 0 (by omega)]
    simpa [frameBody] using ha
  · rw [body 1 (by omega)]
    simpa [frameBody] using hk
  · rw [body 2 (by omega)]
    simp [frameBody]
  · rw [body 3 (by omega)]
    simpa [frameBody] using hp
  · rw [taken, check 0, check 1]
    exact rd8_be16 _ (BitVec.isLt _)

theorem frameBytes_payload : ((frameBytes address kind seq payload).drop 4).take payload.length = payload :=
  List.take_left' rfl

theorem rd8_frameBytes {i : Nat} (h : i < payload.length) :
    rd8 (frameBytes address kind seq payload) (i + 4) = rd8 payload i :=
  rd8_append_left (b := frameBody address kind seq payload) _ (by rw [frameBody_length]; omega)

end Frames

theorem ExKind.code_lt (k : ExKind) : k.code < 256 := by cases k <;> decide

theorem AddrIx.wire_lt (a : AddrIx) : a.wire < 256 := by
  unfold AddrIx.wire
  omega

/-! ### A LOOK's components in wire-slot order (R6) -/

/-- The wire slot of the component at an internal place. -/
def wireAt (cs : List Component) (k : Nat) : Option Nat := (cs[k]?).map Component.wire

theorem wireAt_lt {cs : List Component} {k w : Nat} (h : wireAt cs k = some w) : k < cs.length := by
  obtain ⟨c, hc, -⟩ := Option.map_eq_some_iff.mp h
  exact (List.getElem?_eq_some_iff.mp hc).1

/-- The bytes of the component at an internal place. -/
def placeBytes (cs : List Component) (out : Colour) (j : Fin 6) : List Byte :=
  match cs[j.val]? with
  | some c => componentBytes c (out.get j)
  | none => []

/-- The bytes of a wire slot, as `colourBytes` looks them up. -/
def slotBytes (cs : List Component) (out : Colour) (w : Nat) : List Byte :=
  match cs.zipIdx.find? (fun ck => ck.1.wire == w) with
  | some (c, k) => componentBytes c (out.toList.getD k 0)
  | none => []

theorem colourBytes_eq_slots (cs : List Component) (out : Colour) :
    colourBytes cs out = (List.range cs.length).flatMap (slotBytes cs out) := rfl

theorem placeBytes_length (cs : List Component) (out : Colour) (j : Fin 6) : (placeBytes cs out j).length ≤ 2 := by
  unfold placeBytes
  cases cs[j.val]? with
  | none => simp
  | some c =>
    unfold componentBytes
    dsimp only
    split <;> simp

/-- The internal places named in the order of their wire slots, which number all components from 0. -/
def InWireOrder (cs : List Component) (js : List (Fin 6)) : Prop :=
  js.map (fun j => wireAt cs j.val) = (List.range cs.length).map some

section WireOrder
variable {cs : List Component} {js : List (Fin 6)}

theorem InWireOrder.length (h : InWireOrder cs js) : js.length = cs.length := by
  simpa using congrArg List.length h

theorem InWireOrder.nodup (h : InWireOrder cs js) : js.Nodup :=
  List.Nodup.of_map _ (h ▸ List.nodup_range.map (Option.some_injective _))

theorem InWireOrder.length_le (h : InWireOrder cs js) : js.length ≤ 6 := by
  simpa using h.nodup.length_le_card

theorem InWireOrder.wireAt_mem (h : InWireOrder cs js) {j : Fin 6} (hj : j ∈ js) :
    ∃ w, wireAt cs j.val = some w := by
  have : wireAt cs j.val ∈ (List.range cs.length).map some := h ▸ List.mem_map_of_mem hj
  obtain ⟨w, -, hw⟩ := List.mem_map.mp this
  exact ⟨w, hw.symm⟩

/-- As many different places as there are components are all of them. -/
theorem InWireOrder.places_perm (h : InWireOrder cs js) : (js.map Fin.val).Perm (List.range cs.length) := by
  refine (List.subperm_of_subset (h.nodup.map Fin.val_injective) fun k hk => ?_).perm_of_length_le
    (by simp [h.length])
  obtain ⟨j, hj, rfl⟩ := List.mem_map.mp hk
  obtain ⟨w, hw⟩ := h.wireAt_mem hj
  exact List.mem_range.mpr (wireAt_lt hw)

/-- So no two components share a wire slot. -/
theorem InWireOrder.wires_nodup (h : InWireOrder cs js) : ((List.range cs.length).map (wireAt cs)).Nodup := by
  have perm : ((js.map Fin.val).map (wireAt cs)).Perm ((List.range cs.length).map (wireAt cs)) :=
    h.places_perm.map _
  rw [List.map_map] at perm
  exact perm.nodup_iff.mp (h ▸ List.nodup_range.map (Option.some_injective _))

theorem InWireOrder.place_unique (h : InWireOrder cs js) {i k w : Nat} (hi : wireAt cs i = some w)
    (hk : wireAt cs k = some w) : i = k :=
  List.inj_on_of_nodup_map h.wires_nodup (List.mem_range.mpr (wireAt_lt hi)) (List.mem_range.mpr (wireAt_lt hk))
    (hi.trans hk.symm)

theorem InWireOrder.slotBytes_eq (h : InWireOrder cs js) (out : Colour) {j : Fin 6} {w : Nat}
    (hw : wireAt cs j.val = some w) : slotBytes cs out w = placeBytes cs out j := by
  obtain ⟨c, hc, rfl⟩ := Option.map_eq_some_iff.mp hw
  have found : cs.zipIdx.find? (fun ck => ck.1.wire == c.wire) = some (c, j.val) := by
    cases e : cs.zipIdx.find? (fun ck => ck.1.wire == c.wire) with
    | none =>
      have := List.find?_eq_none.mp e (c, j.val) (List.mk_mem_zipIdx_iff_getElem?.mpr hc)
      simp at this
    | some x =>
      obtain ⟨c', k⟩ := x
      have hc' : cs[k]? = some c' := List.mk_mem_zipIdx_iff_getElem?.mp (List.mem_of_find?_eq_some e)
      have wire : c'.wire = c.wire := by simpa using List.find?_some e
      obtain rfl : j.val = k := h.place_unique hw (by simp [wireAt, hc', wire])
      rw [Option.some.inj (hc.symm.trans hc')]
  simp only [slotBytes, found, placeBytes, hc]
  simp [get_eq_getElem]

theorem InWireOrder.colourBytes_eq (h : InWireOrder cs js) (out : Colour) :
    colourBytes cs out = js.flatMap (placeBytes cs out) := by
  calc colourBytes cs out = ((List.range cs.length).map some).flatMap (fun o => o.elim [] (slotBytes cs out)) := by
        rw [colourBytes_eq_slots, List.flatMap_map]
        rfl
    _ = js.flatMap fun j => (wireAt cs j.val).elim [] (slotBytes cs out) := by
        rw [← show js.map _ = _ from h, List.flatMap_map]
    _ = js.flatMap (placeBytes cs out) := by
        refine List.flatMap_congr fun j hj => ?_
        obtain ⟨w, hw⟩ := h.wireAt_mem hj
        rw [hw, Option.elim_some, h.slotBytes_eq out hw]

theorem InWireOrder.colourBytes_length (h : InWireOrder cs js) (out : Colour) : (colourBytes cs out).length ≤ 12 := by
  have each := List.sum_le_card_nsmul (js.map fun j => (placeBytes cs out j).length) 2
    (List.forall_mem_map.mpr fun j _ => placeBytes_length cs out j)
  have few := h.length_le
  rw [List.length_map, smul_eq_mul] at each
  rw [h.colourBytes_eq, List.length_flatMap]
  omega

end WireOrder

/-! ### The frames the part sends -/

theorem aimFrame_sentAs (a : AddrIx) (seq : Seq) (native : Point) (time : Nat) (staged : Bool) (latch : Option SlotIx) :
    SentAs (aimFrame a seq native time staged latch) (a.val + 1) 0x01 seq 10 :=
  frameBytes_sentAs a.wire_lt (by omega) (by simp [be32])

theorem latchFrame_sentAs (n : SlotIx) : SentAs (latchFrame n) 0 0x08 0 1 :=
  frameBytes_sentAs (by omega) (by omega) (by simp)

theorem plainFrame_sentAs (a : AddrIx) (k : ExKind) (seq : Seq) :
    SentAs (plainFrame a k seq) (a.val + 1) k.code seq 0 :=
  frameBytes_sentAs a.wire_lt k.code_lt (by simp)

/-- The fields of an AIM's payload (R180): two native angles in two's complement, the move time, the staged byte and the
latch number. -/
theorem aimFrame_payload (a : AddrIx) (seq : Seq) (native : Point) (time : Nat) (staged : Bool) (n : SlotIx) :
    let aim := aimFrame a seq native time staged (some n)
    (256 * rd8 aim 4 + rd8 aim 5 : Int) = native.pan % 65536 ∧ (256 * rd8 aim 6 + rd8 aim 7 : Int) = native.tilt % 65536 ∧
    rd8 aim 8 * 2 ^ 24 + rd8 aim 9 * 2 ^ 16 + rd8 aim 10 * 2 ^ 8 + rd8 aim 11 = time % 2 ^ 32 ∧
    (rd8 aim 12 ≠ 0 ↔ staged = true) ∧ rd8 aim 13 = (if staged then n.val else 0) := by
  have angle (x : Int) : (256 * ((wrap16 x / 256 % 256 : Nat) : Int) + ((wrap16 x % 256 : Nat) : Int)) = x % 65536 := by
    unfold wrap16
    omega
  have latch : n.val % 256 = n.val := by omega
  intro aim
  have field (i : Nat) (h : i < 10) : rd8 aim (i + 4) = _ := rd8_frameBytes h
  refine ⟨?_, ?_, ?_, ?_, ?_⟩
  · rw [field 0 (by omega), field 1 (by omega)]
    exact angle native.pan
  · rw [field 2 (by omega), field 3 (by omega)]
    exact angle native.tilt
  · rw [field 4 (by omega), field 5 (by omega), field 6 (by omega), field 7 (by omega)]
    simp [be16, be32]
    omega
  · rw [field 8 (by omega)]
    cases staged <;> simp [be16, be32]
  · rw [field 9 (by omega)]
    cases staged <;> simp [be16, be32, latch]

theorem latchFrame_payload (n : SlotIx) : rd8 (latchFrame n) 4 = n.val := by
  have latch : n.val % 256 = n.val := by omega
  rw [latchFrame, rd8_frameBytes (i := 0) (by simp)]
  simp [latch]

/-- A LOOK carries its components in wire-slot order, then the intensity (R6, R122). -/
theorem lookFrame_laid (a : AddrIx) {cs : List Component} {js : List (Fin 6)} (h : InWireOrder cs js) (out : Colour)
    (intensity : Nat) :
    let look := lookFrame a cs out intensity
    let n := (js.flatMap (placeBytes cs out)).length + 2
    SentAs look (a.val + 1) 0x02 0 n ∧ (look.drop 4).take n = js.flatMap (placeBytes cs out) ++ be16 intensity := by
  have short := h.colourBytes_length out
  rw [h.colourBytes_eq] at short
  have size : (js.flatMap (placeBytes cs out) ++ be16 intensity).length = (js.flatMap (placeBytes cs out)).length + 2 := by
    simp
  intro look n
  simp only [look, n, lookFrame, h.colourBytes_eq, ← size]
  exact ⟨frameBytes_sentAs a.wire_lt (by omega) (by omega), frameBytes_payload⟩

/-! ### The statement -/

/-- Settles O53: fades by `fadeAt_value`, each output by the cell or transition that gives it, the CRC bit by bit, and the
frames by their common layout, a LOOK's components by the one place each wire slot has. -/
theorem fadeEvaluated : Obligations.FadeEvaluated := by
  refine ⟨fun c q u now => ⟨fadeAt_value _ _ _ _ _, fun k => ?colourCell, fun z h => Head.colourOutput_live h,
    fun g k h hr => ?colourRelease, fun k h hr => ?colourShow, fun z h => Head.beamOutput_live h,
    fun g h hr => ?beamRelease, Head.beamOutput_show⟩,
    crc16_eq_bits, crc16_check, fun a seq native time staged n k cs out intensity => ?frames⟩
  case colourCell =>
    rw [ColourCell.value, ColourFade.toward_get]
    exact fadeAt_value _ _ _ _ _
  case colourRelease =>
    rw [Head.colourOutput_release h hr, ColourFade.toward_get, Head.showColour_get]
    exact fadeAt_value _ _ _ _ _
  case colourShow =>
    rw [Head.colourOutput_show h hr]
    exact Head.showColour_get k
  case beamRelease =>
    rw [Head.beamOutput_release h hr]
    exact fadeAt_value _ _ _ _ _
  case frames =>
    obtain ⟨pan, tilt, time, staged, latch⟩ := aimFrame_payload a seq native time staged n
    exact ⟨aimFrame_sentAs a seq native _ _ _, pan, tilt, time, staged, latch, latchFrame_sentAs n, latchFrame_payload n,
      plainFrame_sentAs a k seq, fun js h => lookFrame_laid a (js := js) h out intensity⟩

end Sys2Proof.Machine
end

section
/-! SUPPORT. The Sector Table's questions: when a point lies inside a box and two boxes overlap (R50), which sectors are
candidates (R51), and the four ways a path verdict is come to (R52 to R55); with them the statement on path verdicts is
settled. -/

namespace Sys2Proof.Machine

/-! ### Boxes (R50) -/

theorem Box.inside_iff (a : Box) (p : Point) :
    a.inside p = true ↔ a.panMin ≤ p.pan ∧ p.pan ≤ a.panMax ∧ a.tiltMin ≤ p.tilt ∧ p.tilt ≤ a.tiltMax := by
  simp [Box.inside, and_assoc]

theorem Box.overlaps_iff (a b : Box) : a.overlaps b = true ↔
    a.panMin ≤ b.panMax ∧ b.panMin ≤ a.panMax ∧ a.tiltMin ≤ b.tiltMax ∧ b.tiltMin ≤ a.tiltMax := by
  simp [Box.overlaps, and_assoc]

/-- A point inside both of two boxes makes them overlap, whatever their ranges. -/
theorem Box.overlaps_of_inside {a b : Box} {q : Point} (ha : a.inside q = true) (hb : b.inside q = true) :
    a.overlaps b = true := by
  rw [Box.inside_iff] at ha hb
  rw [Box.overlaps_iff]
  omega

/-- Boxes with their ranges in order that overlap share the corner of their larger minima. -/
theorem Box.corner_inside {a b : Box} (ap : a.panMin ≤ a.panMax) (bp : b.panMin ≤ b.panMax)
    (aTilt : a.tiltMin ≤ a.tiltMax) (bTilt : b.tiltMin ≤ b.tiltMax) (h : a.overlaps b = true) :
    a.inside ⟨max a.panMin b.panMin, max a.tiltMin b.tiltMin⟩ = true ∧
      b.inside ⟨max a.panMin b.panMin, max a.tiltMin b.tiltMin⟩ = true := by
  rw [Box.overlaps_iff] at h
  simp only [Box.inside_iff]
  omega

/-! ### Candidates and waypoints (R51, R54) -/

theorem Rig.candidates_eq_filter (r : Rig) (h : HeadIx) :
    r.candidates h = ((r.members.get h).filterMap fun k => r.sectors.get k).filter Sector.armed := by
  rw [List.filter_filterMap]
  rfl

theorem Policy.waypoint_isSome_iff (p : Policy) : p.waypoint.isSome = true ↔ ∃ w, p = .detour w := by
  cases p <;> simp [Policy.waypoint]

/-- A mount sign of plus or minus leaves a stage-relative angle as it is (R5). -/
theorem Binding.effective_eq_heldPoint (b : Binding) (p : Point) : b.effective p = b.heldPoint p := by
  have axis (g : Sign) (v : Int) : g.effective v = if g = .held then 0 else v := by cases g <;> rfl
  simp only [Binding.effective, axis, Binding.heldPoint]

/-! ### Path verdicts (R52 to R55) -/

section Verdicts
variable {cs before after : List Sector} {b : Binding} {hull direct : Box} {target point w : Point} {x y : Sector}

/-- What gives PATH before a detour is thought of (R52). -/
def PathGiven (cs : List Sector) (hull : Box) (target : Point) : Prop :=
  (∃ x ∈ cs, (∃ w, x.policy = .detour w) ∧ x.box.inside target = true) ∨
    ∃ x ∈ cs, x.policy = .refuse ∧ x.box.overlaps (hull.cover target.box) = true

/-- No DETOUR sector among these overlaps a box (R53). -/
def MissesDetours (cs : List Sector) (direct : Box) : Prop :=
  ∀ x ∈ cs, x.box.overlaps direct = true → ∀ w, x.policy ≠ .detour w

/-- A sector overlaps a leg box of a detour by way of a point (R54). -/
def Sector.onLegs (hull : Box) (point target : Point) (y : Sector) : Bool :=
  y.box.overlaps (hull.cover point.box) || y.box.overlaps (point.box.cover target.box)

theorem Sector.onLegs_iff : y.onLegs hull point target = true ↔
    y.box.overlaps (hull.cover point.box) = true ∨ y.box.overlaps (point.box.cover target.box) = true :=
  Bool.or_eq_true_iff

/-- What keeps a detour from clearing (R55): a REFUSE or DETOUR sector on its legs. -/
theorem legsBlocked_iff : cs.any (fun y => y.policy != .darken && y.onLegs hull point target) = true ↔
    ∃ y ∈ cs, y.policy ≠ .darken ∧ (y.box.overlaps (hull.cover point.box) = true ∨
      y.box.overlaps (point.box.cover target.box) = true) := by
  simp [Sector.onLegs_iff]

theorem pathGiven_iff : PathGiven cs hull target ↔
    (cs.any (fun x => x.policy.waypoint.isSome && x.box.inside target) ||
      cs.any (fun x => x.policy == .refuse && x.box.overlaps (hull.cover target.box))) = true := by
  simp [PathGiven, ← Policy.waypoint_isSome_iff]

theorem missesDetours_iff : MissesDetours cs direct ↔
    cs.find? (fun x => x.policy.waypoint.isSome && x.box.overlaps direct) = none := by
  simp only [MissesDetours, List.find?_eq_none, Bool.and_eq_true, Policy.waypoint_isSome_iff]
  exact forall₂_congr fun x _ => ⟨fun h ⟨⟨w, hw⟩, ho⟩ => h ho w hw, fun h ho w hw => h ⟨⟨w, hw⟩, ho⟩⟩

/-- The lowest DETOUR sector that overlaps a box is the first found. -/
theorem find_detour (hx : x.policy = .detour w) (ho : x.box.overlaps direct = true) (hb : MissesDetours before direct) :
    (before ++ x :: after).find? (fun x => x.policy.waypoint.isSome && x.box.overlaps direct) = some x := by
  rw [List.find?_append, missesDetours_iff.mp hb, Option.none_or,
    List.find?_cons_of_pos (by simp [hx, ho, Policy.waypoint])]

theorem verdict_path_of_given (given : PathGiven cs hull target) : verdict cs b hull target = .path :=
  if_pos (pathGiven_iff.mp given)

theorem verdict_direct (given : ¬PathGiven cs hull target) (misses : MissesDetours cs (hull.cover target.box)) :
    verdict cs b hull target =
      .direct (cs.any fun x => x.policy == .darken && x.box.overlaps (hull.cover target.box)) := by
  rw [pathGiven_iff] at given
  rw [missesDetours_iff] at misses
  simp only [verdict, if_neg given, misses]

/-- A detour tried around the lowest DETOUR sector: PATH or DETOUR, by the sectors on its legs (R54, R55). -/
theorem verdict_detour_tried (given : ¬PathGiven cs hull target) (hcs : cs = before ++ x :: after)
    (hx : x.policy = .detour w) (ho : x.box.overlaps (hull.cover target.box) = true)
    (hb : MissesDetours before (hull.cover target.box)) :
    verdict cs b hull target =
      if cs.any (fun y => y.policy != .darken && y.onLegs hull (b.heldPoint w) target) then .path
      else .detour (b.heldPoint w) (cs.any fun y => y.policy == .darken && y.onLegs hull (b.heldPoint w) target) := by
  have found := hcs ▸ find_detour (after := after) hx ho hb
  have waypoint : x.policy.waypoint.getD ⟨0, 0⟩ = w := by rw [hx]; rfl
  rw [pathGiven_iff] at given
  simp only [verdict, if_neg given, found, waypoint, Binding.effective_eq_heldPoint]
  rfl

end Verdicts

/-! ### The statement -/

/-- Settles O52: the boxes by their ranges' ends, and each verdict by the rule that gives it, PATH by `PathGiven`, DIRECT
where no DETOUR sector is met, and a detour tried by the sectors on its legs. -/
theorem directVerdict : Obligations.DirectVerdict := by
  refine ⟨fun a b p => ⟨a.inside_iff p, a.overlaps_iff b, fun ap bp aTilt bTilt => ?shared, rfl, rfl⟩,
    Rig.candidates_eq_filter, fun cs b hull target notPath misses => ?direct,
    fun cs b hull target => ⟨verdict_path_of_given, fun given misses => ?notPath,
      fun before x after w hcs given hx ho hb => ⟨fun met => ?blocked, fun clear => ?clears⟩⟩⟩
  case shared =>
    exact ⟨fun h => ⟨_, Box.corner_inside ap bp aTilt bTilt h⟩, fun ⟨_, ha, hb⟩ => Box.overlaps_of_inside ha hb⟩
  case direct =>
    have given : ¬PathGiven cs hull target := fun h => notPath (verdict_path_of_given h)
    exact ⟨_, verdict_direct given misses, by simp⟩
  case notPath =>
    rw [verdict_direct given misses]
    exact Verdict.noConfusion
  case blocked =>
    rw [verdict_detour_tried given hcs hx ho hb, if_pos (legsBlocked_iff.mpr met)]
  case clears =>
    have unblocked : ¬_ := fun blocked =>
      let ⟨y, hy, notDarken, met⟩ := legsBlocked_iff.mp blocked
      notDarken (clear y hy met)
    exact ⟨_, (verdict_detour_tried given hcs hx ho hb).trans (if_neg unblocked), by simp [Sector.onLegs_iff]⟩

end Sys2Proof.Machine
end

section
/-! SUPPORT. The Motion Planner's answers: when a target is in range (R62), the plan for each path verdict (R63), and the
minimum times of axes and legs as the least that the profile's speeds allow (R64); with them the statement on planning is
settled. -/

namespace Sys2Proof.Machine

/-! ### The range check (R62) -/

theorem Profile.reaches_iff (p : Profile) (native : Point) : p.reaches native = true ↔
    p.panMin ≤ native.pan ∧ native.pan ≤ p.panMax ∧ p.tiltMin ≤ native.tilt ∧ native.tilt ≤ p.tiltMax := by
  simp [Profile.reaches, and_assoc]

/-- The range check in the axes' native angles, by any function that is the product with a mount sign (R5). -/
theorem Profile.reaches_turn_iff {native : Sign → Int → Int} (product : ∀ g a, native g a = g.times a) (p : Profile)
    (b : Binding) (q : Point) : p.reaches (b.turn q) = true ↔
      p.panMin ≤ native b.panSign q.pan ∧ native b.panSign q.pan ≤ p.panMax ∧
        p.tiltMin ≤ native b.tiltSign q.tilt ∧ native b.tiltSign q.tilt ≤ p.tiltMax := by
  simp only [product]
  exact p.reaches_iff (b.turn q)

/-! ### Minimum times (R64) -/

/-- The larger distance from a point to the ends of a range. -/
def farthest (lo hi a : Int) : Nat := max (a - lo).natAbs (a - hi).natAbs

/-- The least time, in ms, in which a speed in degrees per second covers a distance in centidegrees. -/
def IsLeastTime (distance speed n : Nat) : Prop :=
  distance * 10 ≤ n * speed ∧ ∀ m, distance * 10 ≤ m * speed → n ≤ m

/-- The larger of the axes' least times from a box to a point. -/
def Profile.IsLegTime (p : Profile) (x : Box) (q : Point) (n : Nat) : Prop :=
  ∃ i j, IsLeastTime (farthest x.panMin x.panMax q.pan) p.panSpeed i ∧
    IsLeastTime (farthest x.tiltMin x.tiltMax q.tilt) p.tiltSpeed j ∧ n = max i j

/-- Rounding up gives the least quotient: a time suffices for an axis exactly when it is at least the axis's minimum. -/
theorem axisMinimum_le_iff {speed : Nat} (pos : 0 < speed) (lo hi a : Int) (m : Nat) :
    axisMinimum lo hi a speed ≤ m ↔ farthest lo hi a * 10 ≤ m * speed := by
  have ceil : axisMinimum lo hi a speed = farthest lo hi a * 10 ⌈/⌉ speed := by
    rw [Nat.ceilDiv_eq_add_pred_div, Nat.add_sub_assoc pos]
    rfl
  rw [ceil, ceilDiv_le_iff_le_mul pos, Nat.mul_comm speed m]

theorem axisMinimum_isLeastTime {speed : Nat} (pos : 0 < speed) (lo hi a : Int) :
    IsLeastTime (farthest lo hi a) speed (axisMinimum lo hi a speed) :=
  ⟨(axisMinimum_le_iff pos lo hi a _).mp le_rfl, fun m => (axisMinimum_le_iff pos lo hi a m).mpr⟩

theorem Profile.legMinimum_isLegTime {p : Profile} (pan : 0 < p.panSpeed) (tilt : 0 < p.tiltSpeed) (x : Box)
    (q : Point) : p.IsLegTime x q (p.legMinimum x q) :=
  ⟨_, _, axisMinimum_isLeastTime pan _ _ _, axisMinimum_isLeastTime tilt _ _ _, rfl⟩

/-! ### Plans by their verdict (R63) -/

section Plans
variable {p : Profile} {b : Binding} {cs : List Sector} {hull : Box} {target w : Point} {d : Bool}

theorem plan_out_of_range (request : Nat) (out : ¬p.reaches (b.turn target) = true) :
    plan p b cs hull target request = .refused .range := by
  simp [plan, out]

theorem plan_path (request : Nat) (inRange : p.reaches (b.turn target) = true)
    (v : verdict cs b hull target = .path) : plan p b cs hull target request = .refused .path := by
  simp [plan, inRange, v]

theorem plan_direct (request : Nat) (inRange : p.reaches (b.turn target) = true)
    (v : verdict cs b hull target = .direct d) : plan p b cs hull target request =
      .legs ⟨target, max request (p.legMinimum hull target), none⟩ none d := by
  simp [plan, inRange, v]

theorem plan_detour_out_of_range (request : Nat) (inRange : p.reaches (b.turn target) = true)
    (v : verdict cs b hull target = .detour w d) (out : ¬p.reaches (b.turn w) = true) :
    plan p b cs hull target request = .refused .path := by
  simp [plan, inRange, v, out]

/-- The first leg's half of the total, rounded up, is what the second leg's leaves of it. -/
theorem plan_detour (request : Nat) (inRange : p.reaches (b.turn target) = true)
    (v : verdict cs b hull target = .detour w d) (wayInRange : p.reaches (b.turn w) = true) :
    let total := max request (max (2 * p.legMinimum hull w - 1) (2 * p.legMinimum w.box target))
    plan p b cs hull target request =
      .legs ⟨w, total - total / 2, none⟩ (some ⟨target, total / 2, none⟩) d := by
  intro total
  have half : total - total / 2 = (total + 1) / 2 := by omega
  simp [plan, inRange, v, wayInRange, half, total]

/-- RANGE is the range check's reason alone: past it a plan is refused with PATH or has legs. -/
theorem plan_eq_range_iff (request : Nat) :
    plan p b cs hull target request = .refused .range ↔ ¬p.reaches (b.turn target) = true := by
  refine ⟨fun refused inRange => ?_, plan_out_of_range request⟩
  cases v : verdict cs b hull target with
  | path => simp [plan_path request inRange v] at refused
  | direct d => simp [plan_direct request inRange v] at refused
  | detour w d =>
    by_cases wayInRange : p.reaches (b.turn w) = true
    · simp [plan_detour request inRange v wayInRange] at refused
    · simp [plan_detour_out_of_range request inRange v wayInRange] at refused

end Plans

/-! ### The statement -/

/-- Settles O51: RANGE by the range check alone, and past it the plan of each verdict, its legs' times from the leg
minima, which are the least the profile's speeds allow. -/
theorem rangeCheck : Obligations.RangeCheck := by
  refine ⟨fun p b cs hull target request => ?range, fun p b cs hull target request => ?plans⟩
  case range =>
    intro native pan tilt
    have product (g : Sign) (a : Int) : native g a = g.times a := by cases g <;> rfl
    exact (plan_eq_range_iff request).trans (not_congr (p.reaches_turn_iff product b target))
  case plans =>
    intro native reaches far axis least panMoves tiltMoves reached
    have product (g : Sign) (a : Int) : native g a = g.times a := by cases g <;> rfl
    have reaches_iff (q : Point) : p.reaches (b.turn q) = true ↔ reaches q := p.reaches_turn_iff product b q
    have inRange := (reaches_iff target).mpr reached
    have leg (x : Box) (q : Point) : least x q (p.legMinimum x q) := Profile.legMinimum_isLegTime panMoves tiltMoves x q
    refine ⟨plan_path request inRange, fun d v => ?direct, fun w d v => ⟨fun out => ?outside, fun way => ?detour⟩⟩
    case direct => exact ⟨_, leg hull target, plan_direct request inRange v⟩
    case outside => exact plan_detour_out_of_range request inRange v (mt (reaches_iff w).mp out)
    case detour => exact ⟨_, _, leg hull w, leg w.box target, plan_detour request inRange v ((reaches_iff w).mpr way)⟩

end Sys2Proof.Machine
end
